-- ==== Sys2Proof/Word.lean ====
section
/-! DEFINITION. The word types of CORE (spec 00_scope.md R13, R14): bytes, 32-bit unsigned
integers and the 16-bit request header. Every integer of this hardware is unsigned. -/

namespace Sys2Proof

/-- `u8` (R13). -/
abbrev Byte := BitVec 8

/-- `u32` (R13). -/
abbrev Word := BitVec 32

/-- The 16-bit request header word `H` (R80, R82). -/
abbrev Header := BitVec 16

end Sys2Proof
end

