-- ==== Sys2Proof/Syntax.lean ====
section
/-! DEFINITION. The operations of CORE: one constructor per row of spec/opcode_table.json
(spec 00_scope.md R4, 30_encoding.md R81, R83 to R87). -/

namespace Sys2Proof

/-- One request of CORE with its operands (R81). -/
inductive Instr where
  /-- CRC.INIT (R121), format N. -/
  | crcInit
  /-- CRC.BYTE `b` (R122), format B. -/
  | crcByte (b : Byte)
  /-- CRC.FINAL (R123), format N. -/
  | crcFinal
  /-- REC.ENC (R144), format N. -/
  | recEnc
  /-- REC.DEC (R145), format N. -/
  | recDec
  /-- REC.CSUM (R146), format N. -/
  | recCsum
  /-- REC.VALID (R147), format N. -/
  | recValid
  /-- RGN.READ `off, cnt` (R100), format M. -/
  | rgnRead (off cnt : Word)
  /-- RGN.PROG `off, bytes` (R101), format M; `cnt` is the number of bytes (R81, R86). -/
  | rgnProg (off : Word) (wdata : List Byte)
  /-- RGN.ERASE `off, cnt` (R102), format M. -/
  | rgnErase (off cnt : Word)
  /-- CFG.READ `max_len` with the buffer-present bit (R164), format L. -/
  | cfgRead (bufp : Bool) (maxLen : Byte)
  /-- CFG.WRITE `len, bytes` with the buffer-present bit and the eight side-band bytes (R169), format L. -/
  | cfgWrite (bufp : Bool) (len : Byte) (wdata : List Byte)
  deriving DecidableEq, Repr

end Sys2Proof
end

