-- ==== Sys2Proof/WellFormed.lean ====
section
/-! DEFINITION. When an `Instr` is a request the ports can carry (spec 30_encoding.md R81):
RGN.PROG has `cnt` bytes with `cnt` a `u32`, CFG.WRITE has exactly eight side-band bytes. Every
other operand is well-formed by its type. -/

namespace Sys2Proof

/-- The side-band shape of R81. -/
def Instr.wellFormed : Instr → Bool
  | .rgnProg _ wdata => decide (wdata.length < 2 ^ 32)
  | .cfgWrite _ _ wdata => wdata.length == 8
  | .crcInit => true
  | .crcByte _ => true
  | .crcFinal => true
  | .recEnc => true
  | .recDec => true
  | .recCsum => true
  | .recValid => true
  | .rgnRead _ _ => true
  | .rgnErase _ _ => true
  | .cfgRead _ _ => true

end Sys2Proof
end

