-- ==== Sys2Proof/Decode.lean ====
section
/-! DEFINITION. Request encoding (spec 30_encoding.md): the four ports (R5, R95), a request with its
side band (R81), the selector map with the match and mask of each row (R87), the decoder, total on
every header and side band and rejecting by name (R90), and after it the encoder (R83 to R86), the
textual form (R93) and the pseudo-instructions (R94). -/

namespace Sys2Proof

/-- The four request/response ports (R5). The host reaches the store port only. -/
inductive Port where
  | crc
  | codec
  | region
  | store
  deriving DecidableEq, Repr

/-- A request as it stands on a port: the header and the side-band operands (R80, R81). An operation
that does not list an operand ignores it. -/
structure Request where
  port : Port
  hdr : Header
  off : Word
  cnt : Word
  wdata : List Byte
  deriving DecidableEq, Repr

/-- The rows of the selector map (R87). -/
inductive Op where
  | crcInit | crcByte | crcFinal
  | recEnc | recDec | recCsum | recValid
  | rgnRead | rgnProg | rgnErase
  | cfgRead | cfgWrite
  deriving DecidableEq, Repr

/-- All twelve rows, in the order of R87. -/
def Op.all : List Op :=
  [.crcInit, .crcByte, .crcFinal, .recEnc, .recDec, .recCsum, .recValid,
    .rgnRead, .rgnProg, .rgnErase, .cfgRead, .cfgWrite]

/-- The port of each row (R87, R95). -/
def Op.port : Op → Port
  | .crcInit => .crc
  | .crcByte => .crc
  | .crcFinal => .crc
  | .recEnc => .codec
  | .recDec => .codec
  | .recCsum => .codec
  | .recValid => .codec
  | .rgnRead => .region
  | .rgnProg => .region
  | .rgnErase => .region
  | .cfgRead => .store
  | .cfgWrite => .store

/-- The `match` column of R87. -/
def Op.pattern : Op → Header
  | .crcInit => 0x1000
  | .crcByte => 0x2000
  | .crcFinal => 0x3000
  | .recEnc => 0x4000
  | .recDec => 0x5000
  | .recCsum => 0x6000
  | .recValid => 0x7000
  | .rgnRead => 0x8000
  | .rgnProg => 0x9000
  | .rgnErase => 0xA000
  | .cfgRead => 0xC000
  | .cfgWrite => 0xD000

/-- The `mask` column of R87: format N and M `0xFFFF`, format B `0xFF00`, format L `0xFE00`. -/
def Op.mask : Op → Header
  | .crcByte => 0xFF00
  | .cfgRead => 0xFE00
  | .cfgWrite => 0xFE00
  | .crcInit => 0xFFFF
  | .crcFinal => 0xFFFF
  | .recEnc => 0xFFFF
  | .recDec => 0xFFFF
  | .recCsum => 0xFFFF
  | .recValid => 0xFFFF
  | .rgnRead => 0xFFFF
  | .rgnProg => 0xFFFF
  | .rgnErase => 0xFFFF

/-- A header selects a row when `(H and mask) = match` (R87). -/
def Op.selects (op : Op) (h : Header) : Bool :=
  h &&& op.mask == op.pattern

/-- The row a header selects, if any (R87). -/
def decodeOp (h : Header) : Option Op :=
  Op.all.find? (fun op => op.selects h)

/-- Why a request is no request of its port. -/
inductive DecodeError where
  /-- `sel` is one of the reserved selectors `0x0`, `0xB`, `0xE`, `0xF` (R87, R90). -/
  | reservedSelector
  /-- a field that must be zero is not (R82, R90). -/
  | nonzeroField
  /-- the header is a row of another port (R95, R90). -/
  | wrongPort
  /-- RGN.PROG whose `wdata` has not exactly `cnt` bytes (R81). -/
  | wdataLength
  deriving DecidableEq, Repr

/-- `sel = H[15:12]` (R82). -/
def Header.sel (h : Header) : BitVec 4 := h.extractLsb' 12 4

/-- `z = H[11:9]`, which must be `000` (R82). -/
def Header.z (h : Header) : BitVec 3 := h.extractLsb' 9 3

/-- `bufp = H[8]` (R82, R89). -/
def Header.bufp (h : Header) : Bool := h.getLsbD 8

/-- `arg = H[7:0]`, unsigned (R82, R89). -/
def Header.arg (h : Header) : Byte := h.extractLsb' 0 8

/-- The name of the rejection of a header that selects no row (R90). -/
def headerError (h : Header) : DecodeError :=
  if Header.sel h = 0x0 ∨ Header.sel h = 0xB ∨ Header.sel h = 0xE ∨ Header.sel h = 0xF then
    .reservedSelector
  else .nonzeroField

/-- The eight byte lanes of CFG.WRITE's `wdata`: padded on the right with `0x00`, or cut to the
first eight (R81, R93; log entry 18). -/
def lanes8 (wdata : List Byte) : List Byte :=
  (wdata ++ List.replicate 8 0x00).take 8

/-- The operands of a selected row, taken from the header and the side band (R83 to R86, R89). -/
def operands (op : Op) (r : Request) : Except DecodeError Instr :=
  match op with
  | .crcInit => .ok .crcInit
  | .crcByte => .ok (.crcByte (Header.arg r.hdr))
  | .crcFinal => .ok .crcFinal
  | .recEnc => .ok .recEnc
  | .recDec => .ok .recDec
  | .recCsum => .ok .recCsum
  | .recValid => .ok .recValid
  | .rgnRead => .ok (.rgnRead r.off r.cnt)
  | .rgnProg => if r.wdata.length = r.cnt.toNat then .ok (.rgnProg r.off r.wdata) else .error .wdataLength
  | .rgnErase => .ok (.rgnErase r.off r.cnt)
  | .cfgRead => .ok (.cfgRead (Header.bufp r.hdr) (Header.arg r.hdr))
  | .cfgWrite => .ok (.cfgWrite (Header.bufp r.hdr) (Header.arg r.hdr) (lanes8 r.wdata))

/-- The decoder: a port accepts its own rows only (R87, R90, R95). -/
def decode (r : Request) : Except DecodeError Instr :=
  match decodeOp r.hdr with
  | none => .error (headerError r.hdr)
  | some op => if op.port = r.port then operands op r else .error .wrongPort

/-- The row of the selector map an instruction belongs to. -/
def Instr.op : Instr → Op
  | .crcInit => .crcInit
  | .crcByte _ => .crcByte
  | .crcFinal => .crcFinal
  | .recEnc => .recEnc
  | .recDec => .recDec
  | .recCsum => .recCsum
  | .recValid => .recValid
  | .rgnRead _ _ => .rgnRead
  | .rgnProg _ _ => .rgnProg
  | .rgnErase _ _ => .rgnErase
  | .cfgRead _ _ => .cfgRead
  | .cfgWrite _ _ _ => .cfgWrite

/-- The header of formats L: `{sel, 000, bufp, arg}` (R85). -/
def formatL (op : Op) (bufp : Bool) (arg : Byte) : Header :=
  op.pattern ||| (if bufp then 0x0100 else 0x0000) ||| arg.setWidth 16

/-- The header word of an instruction (R83 to R86). -/
def Instr.header : Instr → Header
  | .crcByte b => Op.pattern .crcByte ||| b.setWidth 16
  | .cfgRead bufp n => formatL .cfgRead bufp n
  | .cfgWrite bufp n _ => formatL .cfgWrite bufp n
  | .crcInit => Op.pattern .crcInit
  | .crcFinal => Op.pattern .crcFinal
  | .recEnc => Op.pattern .recEnc
  | .recDec => Op.pattern .recDec
  | .recCsum => Op.pattern .recCsum
  | .recValid => Op.pattern .recValid
  | .rgnRead _ _ => Op.pattern .rgnRead
  | .rgnProg _ _ => Op.pattern .rgnProg
  | .rgnErase _ _ => Op.pattern .rgnErase

/-- The encoder: the request that carries an instruction, unlisted side-band operands zero
(R81, R83 to R86, R93). -/
def encode (i : Instr) : Request :=
  let base : Request := { port := i.op.port, hdr := i.header, off := 0, cnt := 0, wdata := [] }
  match i with
  | .rgnRead off cnt => { base with off := off, cnt := cnt }
  | .rgnProg off wdata => { base with off := off, cnt := BitVec.ofNat 32 wdata.length, wdata := wdata }
  | .rgnErase off cnt => { base with off := off, cnt := cnt }
  | .cfgWrite _ _ wdata => { base with wdata := wdata }
  | .crcInit => base
  | .crcByte _ => base
  | .crcFinal => base
  | .recEnc => base
  | .recDec => base
  | .recCsum => base
  | .recValid => base
  | .cfgRead _ _ => base

/-- The port a header's selector belongs to; the store port for the reserved selectors, where the
host's illegal requests arrive (R90, R95). -/
def homePort (h : Header) : Port :=
  match decodeOp h with
  | some op => op.port
  | none => .store

/-- The request whose header is the low bits of `w`, with a side band of zeros. -/
def tableRequest (nbits w : Nat) : Request :=
  let h : Header := BitVec.ofNat 16 (w % 2 ^ nbits)
  { port := homePort h, hdr := h, off := 0, cnt := 0, wdata := [] }

/-- The instruction the decoder reads from a row of the opcode table whose bits are `w`: a header of
16 bits (R91) and a side band of zeros. -/
def decodeTableWord (nbits w : Nat) : Option Instr :=
  if nbits = 16 then (decode (tableRequest nbits w)).toOption else none

/-- The pseudo-instruction `crc32 bytes` (R94). -/
def expandCrc32 (bytes : List Byte) : List Instr :=
  .crcInit :: (bytes.map .crcByte ++ [.crcFinal])

/-- The pseudo-instruction `write_config(X)` without a length (R94): `cfg.write len(X), X`. R93 gives no
header to a length above 255: DESIGN CHOICE, such an `X` is sent with the length 255, a length error like
every length above 8 (R202; log entry 30). -/
def expandWriteConfig (bytes : List Byte) : Instr :=
  .cfgWrite true (BitVec.ofNat 8 (min bytes.length 255)) (lanes8 bytes)

/-- One hexadecimal digit of the textual form. -/
def hexDigit (n : Nat) : Char :=
  if n < 10 then Char.ofNat (48 + n) else Char.ofNat (55 + n)

/-- A byte as two hexadecimal digits. -/
def hexByte (b : Byte) : List Char :=
  [hexDigit (b.toNat / 16), hexDigit (b.toNat % 16)]

/-- A byte sequence in the braced hexadecimal form of R93 (characters 123 and 125 are the braces). -/
def hexBytes (bs : List Byte) : String :=
  String.ofList (Char.ofNat 123 :: ((bs.map hexByte).intersperse [' ']).flatten ++ [Char.ofNat 125])

/-- The textual form of a request (R93): mnemonic in lower case, operands separated by commas,
numbers in decimal, byte sequences in the braced form, `nobuf` where the buffer is absent. -/
def Instr.text : Instr → String
  | .crcInit => "crc.init"
  | .crcByte b => "crc.byte " ++ toString b.toNat
  | .crcFinal => "crc.final"
  | .recEnc => "rec.enc"
  | .recDec => "rec.dec"
  | .recCsum => "rec.csum"
  | .recValid => "rec.valid"
  | .rgnRead off cnt => "rgn.read " ++ toString off.toNat ++ ", " ++ toString cnt.toNat
  | .rgnProg off wdata => "rgn.prog " ++ toString off.toNat ++ ", " ++ hexBytes wdata
  | .rgnErase off cnt => "rgn.erase " ++ toString off.toNat ++ ", " ++ toString cnt.toNat
  | .cfgRead true n => "cfg.read " ++ toString n.toNat
  | .cfgRead false n => "cfg.read " ++ toString n.toNat ++ ", nobuf"
  | .cfgWrite true n wdata => "cfg.write " ++ toString n.toNat ++ ", " ++ hexBytes wdata
  | .cfgWrite false n _ => "cfg.write " ++ toString n.toNat ++ ", nobuf"

end Sys2Proof
end

