-- ==== Sys2Proof/Config.lean ====
section
/-! DEFINITION. The configuration parameters of one CORE instance (spec 00_scope.md R10, R31).
They are fixed at build time and no operation reads them as data or writes them. State carries
them as plain data so that a statement about every state covers every configuration (log entry 1).
This spec leaves no result of an operation undefined, so there is no opaque free value here:
the platform's answers and draws (R33) are inputs and stand in State. -/

namespace Sys2Proof

/-- `ENDIAN`: the byte order of `block_id` and `checksum` in the record image (R10, R56). -/
inductive Endian where
  | little
  | big
  deriving DecidableEq, Repr

/-- The parameters of R10. -/
structure Config where
  /-- `BASE_OFFSET`: platform address of region byte 0 (R51). -/
  baseOffset : Nat
  /-- `REGION_SIZE`: size of the region in bytes (R32). -/
  regionSize : Nat
  /-- `RESERVED_LEN`: size of the reserved area inside a record (R140). -/
  reservedLen : Nat
  /-- `ENDIAN` (R56). -/
  endian : Endian
  /-- `VERIFY_ON_READ`: whether CFG.READ checks the checksum of the slot it found (R206). -/
  verifyOnRead : Bool
  deriving DecidableEq, Repr

/-- The reference column of R10 (log entry 2). -/
def Config.reference : Config :=
  { baseOffset := 0x1000, regionSize := 0x1000, reservedLen := 256,
    endian := .little, verifyOnRead := false }

end Sys2Proof
end

