-- ==== Sys2Proof/Machine/Layout.lean ====
section
/-! DEFINITION. Constants (spec 00_scope.md R9), derived sizes (R10, R11), slot addresses
(20_memory.md R51, R53, R54), byte order (R14, R56), and the record with its image
(42_codec.md R140 to R143, R150). -/

namespace Sys2Proof

/-- `ERASED_BYTE` (R9). -/
def erasedByte : Byte := 0xFF

/-- `ERASED_ID`, the erased sentinel (R9). -/
def erasedId : Word := 0xFFFFFFFF

/-- `WRITTEN_ID`, the written marker (R9). -/
def writtenId : Word := 0x00000000

/-- `PAYLOAD_LEN` (R9). -/
def payloadLen : Nat := 8

/-- `ID_LEN` (R9). -/
def idLen : Nat := 4

/-- `CSUM_LEN` (R9). -/
def csumLen : Nat := 4

/-- `CRC_POLY`, reflected (R9, R125). -/
def crcPoly : Word := 0xEDB88320

/-- `CRC_INIT` (R9). -/
def crcInitValue : Word := 0xFFFFFFFF

/-- `CRC_XOROUT` (R9). -/
def crcXorOut : Word := 0xFFFFFFFF

/-- `RECORD_SIZE = 4 + 8 + 8 + RESERVED_LEN + 4` (R10). -/
def Config.recordSize (c : Config) : Nat :=
  idLen + payloadLen + payloadLen + c.reservedLen + csumLen

/-- `CS_OFF = RECORD_SIZE - 4` (R10, R140). -/
def Config.csOff (c : Config) : Nat := idLen + payloadLen + payloadLen + c.reservedLen

/-- `RECORD_COUNT`, division rounding down (R10, R11). -/
def Config.recordCount (c : Config) : Nat := c.regionSize / c.recordSize

/-- `TAIL_LEN` (R10, R55). -/
def Config.tailLen (c : Config) : Nat := c.regionSize - c.recordCount * c.recordSize

/-- The legal values of R10 and R12; the model does not run any other configuration (U16). -/
def Config.legal (c : Config) : Bool :=
  decide (c.baseOffset < 2 ^ 32) && decide (c.regionSize < 2 ^ 32) && decide (c.reservedLen ≤ 65511)
    && decide (1 ≤ c.recordCount) && decide (c.recordCount ≤ 65535)

/-- `SlotOff(i) = i * RECORD_SIZE` (R53, R54). -/
def Config.slotOff (c : Config) (i : Nat) : Nat := i * c.recordSize

/-- Region offset `o` is platform address `BASE_OFFSET + o` (R51). No other rule uses the base. -/
def Config.platformAddress (c : Config) (o : Nat) : Nat := c.baseOffset + o

/-- `rep(v, n)` (R14). -/
def rep (v : Byte) (n : Nat) : List Byte := List.replicate n v

/-- `B[a..b)` (R14). -/
def slice (bs : List Byte) (a b : Nat) : List Byte := (bs.drop a).take (b - a)

/-- `le32(v)`: bits 7 to 0 first (R14). -/
def le32 (v : Word) : List Byte :=
  [v.extractLsb' 0 8, v.extractLsb' 8 8, v.extractLsb' 16 8, v.extractLsb' 24 8]

/-- `be32(v)`: bits 31 to 24 first (R14). -/
def be32 (v : Word) : List Byte :=
  [v.extractLsb' 24 8, v.extractLsb' 16 8, v.extractLsb' 8 8, v.extractLsb' 0 8]

/-- `int32(v)` by `ENDIAN` (R14, R56). -/
def int32 : Endian → Word → List Byte
  | .little => le32
  | .big => be32

/-- `{b3, b2, b1, b0}`: four bytes as a word, `b3` most significant (R13). -/
def word4 (b3 b2 b1 b0 : Byte) : Word := b3 ++ b2 ++ b1 ++ b0

/-- `unint32(B)`, the inverse of `int32` on four bytes (R14). -/
def unint32 (e : Endian) (bs : List Byte) : Word :=
  match e with
  | .little => word4 (bs.getD 3 0) (bs.getD 2 0) (bs.getD 1 0) (bs.getD 0 0)
  | .big => word4 (bs.getD 0 0) (bs.getD 1 0) (bs.getD 2 0) (bs.getD 3 0)

/-- The decoded record, five fields (10_state.md R22). -/
structure Record where
  blockId : Word
  payloadA : List Byte
  payloadB : List Byte
  reserved : List Byte
  checksum : Word
  deriving DecidableEq, Repr

/-- The field sizes of R22 and R140. -/
def Record.sized (c : Config) (r : Record) : Bool :=
  r.payloadA.length == payloadLen && r.payloadB.length == payloadLen && r.reserved.length == c.reservedLen

/-- `encode(r)` (R142). It serialises whatever the checksum field holds. -/
def encodeRecord (c : Config) (r : Record) : List Byte :=
  int32 c.endian r.blockId ++ r.payloadA ++ r.payloadB ++ r.reserved ++ int32 c.endian r.checksum

/-- `decode(B)` (R143), total. -/
def decodeRecord (c : Config) (bs : List Byte) : Record :=
  { blockId := unint32 c.endian (slice bs 0 4)
    payloadA := slice bs 4 12
    payloadB := slice bs 12 20
    reserved := slice bs 20 c.csOff
    checksum := unint32 c.endian (slice bs c.csOff (c.csOff + 4)) }

/-- `ERASED_IMG` (R150). -/
def Config.erasedImg (c : Config) : List Byte := rep erasedByte c.recordSize

/-- `ERASED_REC` (R150). -/
def Config.erasedRecord (c : Config) : Record := decodeRecord c c.erasedImg

end Sys2Proof
end

