-- ==== Sys2Proof/Machine/State.lean ====
section
/-! DEFINITION. The whole state of CORE and its memory (spec 10_state.md R20 to R40), the inputs the
spec makes arguments of the step (R33) as plain data, the model's own bookkeeping (log entries 7, 16,
17), the reasons a step can stop, and the state after reset (R40). -/

namespace Sys2Proof.Machine

/-- The Storage Region (R32): region offsets with their bytes, strictly rising, no entry equal to the
erased byte an unlisted offset reads as (log entry 15). -/
abbrev Memory := List Host.Cell

/-- The canonical form of `Memory`. -/
abbrev Memory.wf (m : Memory) : Prop :=
  m.Pairwise (fun a b => a.1 < b.1) ∧ ∀ c ∈ m, c.2 ≠ erasedByte

/-- The sequencer state, R26, in the order of its codes. -/
inductive Seq where
  | idle
  | rdScan
  | wrScan
  | wrCommit
  | cpErase
  | cpSlot0
  | cpReinit
  | fault
  deriving DecidableEq, Repr

/-- The kinds `status` can hold (R28, R200). -/
inductive Kind where
  | ok
  | invalidLength
  | notFound
  | hardwareFault
  | corrupt
  | illegalRequest
  deriving DecidableEq, Repr

/-- A request on the region port (R86, R100 to R102), with the bytes of a program. -/
inductive RgnRequest where
  | read (off cnt : Nat)
  | prog (off : Nat) (bytes : List Byte)
  | erase (off cnt : Nat)
  deriving DecidableEq, Repr

/-- What a port answers (R88). -/
inductive Response where
  /-- completion only: CRC.INIT, CRC.BYTE, REC.ENC, REC.DEC -/
  | done
  /-- `value` of CRC.FINAL and REC.CSUM -/
  | value (v : Word)
  /-- `valid` of REC.VALID -/
  | valid (v : Bool)
  /-- `ok` of a region request, and `data` of a successful RGN.READ -/
  | region (ok : Bool) (data : List Byte)
  /-- `status`, `rlen`, `rdata` of the store port -/
  | store (status : Kind) (rlen : BitVec 4) (rdata : List Byte)
  deriving DecidableEq, Repr

/-- The platform's answer to one region request (R104, R105, R241). Bit `k` of a draw says whether
byte `k` of the range has its new value (log entry 10). -/
inductive Answer where
  | ok
  | fail (draw : Nat)
  /-- no answer: the requester waits until reset (R241) -/
  | never
  deriving DecidableEq, Repr

/-- What reaches CORE and its region from outside (R33, R218). -/
inductive Input where
  /-- a request on a port (R81) -/
  | request (r : Request)
  /-- the platform's own access to the region between commands (R64; log entry 14) -/
  | platform (q : RgnRequest)
  /-- reset or power loss, with the draw it leaves in the range of a region request in flight (R230, R236) -/
  | reset (draw : Nat)
  deriving DecidableEq, Repr

/-- MODEL's own: which of the registers unspecified at reset have been written since (R38). -/
structure Written where
  crc : Bool
  record : Bool
  img : Bool
  ptr : Bool
  deriving DecidableEq, Repr

/-- CORE, its region, its inputs and the model's own bookkeeping. -/
structure State where
  /-- the instance's parameters (R10, R31); no step writes them (log entry 1) -/
  cfg : Config
  /-- CRC unit, R21 -/
  crc : Word
  /-- codec unit, the record register `rec`, R22 -/
  record : Record
  /-- codec unit, the image buffer, R23 -/
  img : List Byte
  /-- store unit, the allocation pointer, R25 -/
  ptr : BitVec 16
  /-- store unit, the sequencer, R26 -/
  seq : Seq
  /-- store unit, the sticky fault flag, R27 -/
  fault : Bool
  /-- store unit, R28 -/
  status : Kind
  /-- store unit, R29 -/
  rlen : BitVec 4
  /-- store unit, R29 -/
  rdata : List Byte
  /-- the Storage Region, R32 -/
  rgn : Memory
  /-- the region request between its request and its response, R34 -/
  inflight : Option RgnRequest
  /-- MODEL's own: the last response, R88 (log entry 16) -/
  resp : Option Response
  /-- MODEL's own: the event trace of the last store request, R179 (log entry 17) -/
  trace : List RgnRequest
  /-- inputs still to come, oldest first (log entry 8) -/
  inputs : List Input
  /-- the platform's answers still to come, oldest first (log entry 9) -/
  answers : List Answer
  /-- MODEL's own (log entry 7) -/
  written : Written
  /-- MODEL's own: an unwritten register has been read, R38 (log entry 7) -/
  testFault : Bool
  deriving DecidableEq, Repr

/-- What stops the machine. No condition of this spec does: its fatal condition is the FAULT state,
a next state (R203, R207). -/
inductive Fault where
  /-- `step` in a state where a command runs and no region request is in flight; a command waits
  nowhere else, so no run reaches such a state. Safe: the model stops (log entry 25). -/
  | lostSequencer
  deriving DecidableEq, Repr

/-- Requests and instances the spec tells a model to refuse. Every one is safe: the model stops. -/
inductive Refusal where
  /-- raised by an arm of `exec` without a meaning; there is none left. Safe. -/
  | notModelled (mnemonic : String)
  /-- raised by `step` for a configuration outside R10's bounds (U16, D24). Safe. -/
  | illegalConfiguration
  /-- raised by `step` for a header that is no row of its internal port (R90). Safe. -/
  | unmatchedHeader
  /-- raised by `step` for a RGN.PROG whose `wdata` has not `cnt` bytes (R81). Safe. -/
  | wdataLength
  deriving DecidableEq, Repr

/-- The state after reset of a fresh part in the reference configuration: the values of R40; the four
registers R40 leaves unspecified hold the values of log entries 3 to 6. -/
def State.reset : State :=
  { cfg := Config.reference
    crc := 0xFFFFFFFF
    record := Config.erasedRecord Config.reference
    img := Config.erasedImg Config.reference
    ptr := BitVec.ofNat 16 (Config.recordCount Config.reference)
    seq := .idle
    fault := false
    status := .ok
    rlen := 0
    rdata := rep 0x00 8
    rgn := []
    inflight := none
    resp := none
    trace := []
    inputs := []
    answers := []
    written := { crc := false, record := false, img := false, ptr := false }
    testFault := false }

end Sys2Proof.Machine
end

