-- ==== Sys2Proof/Machine/Flags.lean ====
section
/-! DEFINITION. Flags and condition-like values (spec 10_state.md R26 to R28, R36): the numeric codes,
when the sequencer is running (43_block_store.md R160, 20_memory.md R64), and the two scan tests
(43_block_store.md R170, R171). -/

namespace Sys2Proof.Machine

/-- The 3-bit code of the sequencer state (R26). -/
def Seq.code : Seq → BitVec 3
  | .idle => 0
  | .rdScan => 1
  | .wrScan => 2
  | .wrCommit => 3
  | .cpErase => 4
  | .cpSlot0 => 5
  | .cpReinit => 6
  | .fault => 7

/-- The 3-bit code of `status` (R28, R200). -/
def Kind.code : Kind → BitVec 3
  | .ok => 0
  | .invalidLength => 1
  | .notFound => 2
  | .hardwareFault => 3
  | .corrupt => 4
  | .illegalRequest => 5

/-- A command is running: `seq` is not IDLE and not FAULT (R160, R64). -/
def Seq.running : Seq → Bool
  | .idle => false
  | .fault => false
  | .rdScan => true
  | .wrScan => true
  | .wrCommit => true
  | .cpErase => true
  | .cpSlot0 => true
  | .cpReinit => true

/-- A store command is running or a region request has had no response: no further store or region
request is accepted (R5, R60, R160, R64). DESIGN CHOICE: a unit-level region request that is never answered
makes the machine busy with `seq` IDLE or FAULT too: a store request then gets no answer, neither that of
R160 nor HardwareFault of R207, and the platform has no move (log entry 32). -/
def State.busy (s : State) : Bool := s.seq.running || s.inflight.isSome

/-- The read scan's test: an occupied slot (R171). -/
def Record.occupied (r : Record) : Bool := r.blockId != erasedId

/-- The write scan's test: a matching slot (R170). -/
def Record.isMatching (r : Record) : Bool := r.blockId == erasedId || r.blockId == writtenId

end Sys2Proof.Machine
end

