-- ==== Sys2Proof/Machine/Operands.lean ====
section
/-! DEFINITION. Operand forms: the range of a region request (spec 40_region_ops.md R103), the bytes a
program or erase asks for (R101, R102) and the per-byte mix of a failed or interrupted one (R105, R236),
the argument check of the store commands (43_block_store.md R167 step 3), the bytes an update replaces
(R166) and the bytes a read returns (R164). -/

namespace Sys2Proof.Machine

/-- The first offset of a request's range. -/
def RgnRequest.off : RgnRequest → Nat
  | .read off _ => off
  | .prog off _ => off
  | .erase off _ => off

/-- The number of bytes of a request's range. -/
def RgnRequest.cnt : RgnRequest → Nat
  | .read _ cnt => cnt
  | .prog _ bytes => bytes.length
  | .erase _ cnt => cnt

/-- `off + cnt <= REGION_SIZE`, the sum taken in the natural numbers (R103, R89). -/
def RgnRequest.inRange (c : Config) (q : RgnRequest) : Bool :=
  decide (q.off + q.cnt ≤ c.regionSize)

/-- The bytes a request asks to store at its range: none for a read, `wdata` for a program, `0xFF` for
an erase (R100 to R102). -/
def RgnRequest.newBytes : RgnRequest → List Byte
  | .read _ _ => []
  | .prog _ bytes => bytes
  | .erase _ cnt => rep erasedByte cnt

/-- Each byte of the range old or new by one bit of the draw, bit 0 for the first byte (R105, R236). -/
def mixBytes (draw : Nat) : List Byte → List Byte → List Byte
  | old :: olds, new :: news => (if draw % 2 = 1 then new else old) :: mixBytes (draw / 2) olds news
  | [], _ => []
  | _ :: _, [] => []

/-- `for k = 0 .. len - 1: old[k] <- wdata[k]` (R166); the bytes from `len` on are kept. -/
def overlay : Nat → List Byte → List Byte → List Byte
  | n + 1, w :: ws, _ :: olds => w :: overlay n ws olds
  | 0, _, olds => olds
  | _ + 1, [], olds => olds
  | _ + 1, _ :: _, [] => []

/-- `bufp = 0 or arg > 8` (R167 step 3, R202). -/
def badLength (bufp : Bool) (arg : Byte) : Bool :=
  !bufp || decide (8 < arg.toNat)

/-- `payload_a[0..max_len) ++ rep(0x00, 8 - max_len)` (R164, R29). -/
def readBack (payload : List Byte) (maxLen : Nat) : List Byte :=
  payload.take maxLen ++ rep 0x00 (8 - maxLen)

end Sys2Proof.Machine
end

