-- ==== Sys2Proof/Machine/Ops.lean ====
section
/-! DEFINITION. The named operations every meaning is built from: register writes, the region memory
(spec 20_memory.md R50, R61, R65), one request on the region port (40_region_ops.md R100 to R105, R241),
responses (30_encoding.md R88), raising an error kind (60_exceptions.md R201: this hardware's exception
entry, R211; there is no return operation, R212) and reset (70_reset_and_hazards.md R230, R236), the only
way out of FAULT. -/

namespace Sys2Proof.Machine

/-! ### Register writes -/

/-- `crc <- v` (R21). -/
def State.setCrc (s : State) (v : Word) : State :=
  { s with crc := v, written := { s.written with crc := true } }

/-- `rec <- v` (R22). -/
def State.setRecord (s : State) (v : Record) : State :=
  { s with record := v, written := { s.written with record := true } }

/-- `img <- v` (R23). -/
def State.setImg (s : State) (v : List Byte) : State :=
  { s with img := v, written := { s.written with img := true } }

/-- `ptr <- v` (R25). -/
def State.setPtr (s : State) (v : BitVec 16) : State :=
  { s with ptr := v, written := { s.written with ptr := true } }

/-- `seq <- v` (R15, R26). -/
def State.setSeq (s : State) (v : Seq) : State := { s with seq := v }

/-- A read of a register, `wasWritten` saying whether anything has written it since reset: R38's fault of
the test is recorded and the read goes on (log entry 7). -/
def State.noteRead (s : State) (wasWritten : Bool) : State :=
  { s with testFault := s.testFault || !wasWritten }

/-! ### Responses -/

/-- A response of the CRC, codec or region port (R88); these are not stored by CORE (R36). -/
def State.reply (s : State) (r : Response) : State := { s with resp := some r }

/-- A response of the store port, which writes `status`, `rlen` and `rdata` (R28, R29, R88). -/
def State.respond (s : State) (k : Kind) (rlen : BitVec 4) (rdata : List Byte) : State :=
  { s with status := k, rlen := rlen, rdata := rdata, resp := some (.store k rlen rdata) }

/-- The answer of every outcome but a successful read: the kind, no data (R29, R201). -/
def State.respondEmpty (s : State) (k : Kind) : State := s.respond k 0 (rep 0x00 8)

/-- `raise <Kind>` (R201): the response with the kind and no data, `seq` to IDLE, or for HardwareFault
`seq` to FAULT and `fault` set; everything else stays. -/
def State.raise (s : State) (k : Kind) : State :=
  match k with
  | .hardwareFault => { s.respondEmpty .hardwareFault with seq := .fault, fault := true }
  | .ok => { s.respondEmpty .ok with seq := .idle }
  | .invalidLength => { s.respondEmpty .invalidLength with seq := .idle }
  | .notFound => { s.respondEmpty .notFound with seq := .idle }
  | .corrupt => { s.respondEmpty .corrupt with seq := .idle }
  | .illegalRequest => { s.respondEmpty .illegalRequest with seq := .idle }

/-! ### The region -/

/-- One byte of the region; an unlisted offset is erased (R32, R40; log entry 15). -/
def Memory.read (m : Memory) (a : Nat) : Byte :=
  match m with
  | [] => erasedByte
  | c :: rest => if c.1 = a then c.2 else Memory.read rest a

/-- The entry list with one cell in front, unless it holds the erased byte. -/
def Memory.cons (a : Nat) (b : Byte) (m : Memory) : Memory :=
  if b = erasedByte then m else (a, b) :: m

/-- Overwrite one byte (R65), keeping the canonical form. -/
def Memory.write (m : Memory) (a : Nat) (b : Byte) : Memory :=
  match m with
  | [] => Memory.cons a b []
  | c :: rest =>
    if a < c.1 then Memory.cons a b (c :: rest)
    else if a = c.1 then Memory.cons a b rest
    else c :: Memory.write rest a b

/-- `rgn[off .. off + n)` (R100). -/
def Memory.readBytes (m : Memory) (off : Nat) : Nat → List Byte
  | 0 => []
  | n + 1 => m.read off :: Memory.readBytes m (off + 1) n

/-- `rgn[off + k] <- bytes[k]` for each `k` in order (R101). -/
def Memory.program (m : Memory) (off : Nat) : List Byte → Memory
  | [] => m
  | b :: bs => Memory.program (m.write off b) (off + 1) bs

/-- The region after a request that succeeds (R100 to R102). -/
def RgnRequest.apply (q : RgnRequest) (m : Memory) : Memory :=
  m.program q.off q.newBytes

/-- The region after a program or erase that fails or is cut off: each byte of the range old or new
(R105, R236). A read has no new bytes, so it changes nothing. -/
def RgnRequest.applyPartial (q : RgnRequest) (draw : Nat) (m : Memory) : Memory :=
  m.program q.off (mixBytes draw (m.readBytes q.off q.newBytes.length) q.newBytes)

/-- `data` of a successful request: the bytes read, none for a program or erase (R88, R100). -/
def RgnRequest.data (q : RgnRequest) (m : Memory) : List Byte :=
  match q with
  | .read off cnt => m.readBytes off cnt
  | .prog _ _ => []
  | .erase _ _ => []

/-- What the requester on the region port receives. -/
inductive RgnAnswer where
  | ok (data : List Byte)
  | fail
  | never

/-- The platform's answer to the next in-range request: the oldest one still to come; a platform with
none left never fails, the reference behaviour (R104; log entry 9). -/
def State.nextAnswer (s : State) : Answer := s.answers.headD .ok

/-- The platform has answered once. -/
def State.popAnswer (s : State) : State := { s with answers := s.answers.tail }

/-- `rgn <- m`, by the region port alone (R32). -/
def State.setRgn (s : State) (m : Memory) : State := { s with rgn := m }

/-- A request stays between its request and its response: there is no response (R34, R241). -/
def State.await (s : State) (q : RgnRequest) : State := { s with inflight := some q, resp := none }

/-- The answer an in-range request gets: `ok` when it asks for no byte (R103), else the platform's (R104). -/
def State.answerTo (s : State) (q : RgnRequest) : Answer := if q.cnt = 0 then .ok else s.nextAnswer

/-- One request on the region port (R100 to R105): out of range it fails and changes nothing; in range
it gets its answer. DESIGN CHOICE: every in-range request takes one entry of `answers`, a request of no
bytes too, which does not look at it (log entry 31). -/
def regionPort (q : RgnRequest) (s : State) : RgnAnswer × State :=
  if q.inRange s.cfg then
    match s.answerTo q with
    | .ok => (.ok (q.data s.rgn), s.popAnswer.setRgn (q.apply s.rgn))
    | .fail draw => (.fail, s.popAnswer.setRgn (q.applyPartial draw s.rgn))
    | .never => (.never, s.popAnswer.await q)
  else (.fail, s)

/-! ### Reset -/

/-- Reset or power loss, at any moment (R230, R220): the control and response registers take the values
of R40, the registers R40 leaves unspecified the values of log entries 3 to 6, the region keeps its
bytes except that the range of a request in flight is a per-byte mix (R236); a running command is
abandoned without a response. -/
def State.resetBy (s : State) (draw : Nat) : State :=
  { s with
    crc := 0xFFFFFFFF
    record := s.cfg.erasedRecord
    img := s.cfg.erasedImg
    ptr := BitVec.ofNat 16 s.cfg.recordCount
    seq := .idle
    fault := false
    status := .ok
    rlen := 0
    rdata := rep 0x00 8
    rgn := match s.inflight with
      | none => s.rgn
      | some q => q.applyPartial draw s.rgn
    inflight := none
    resp := none
    trace := []
    written := { crc := false, record := false, img := false, ptr := false } }

end Sys2Proof.Machine
end

