-- ==== Sys2Proof/Machine/Region.lean ====
section
/-! DEFINITION. The region port (spec 40_region_ops.md): RGN.READ, RGN.PROG, RGN.ERASE (R100 to R102) as
requests at that port (20_memory.md R69; log entry 14). -/

namespace Sys2Proof.Machine

/-- One transaction on the region port. It is not accepted while a command runs or another region request
is in flight (R60, R64); a request that is never answered stays in flight (R241). -/
def regionTransaction (q : RgnRequest) (s : State) : State :=
  if s.busy then s
  else
    match regionPort q s with
    | (.ok data, t) => t.reply (.region true data)
    | (.fail, t) => t.reply (.region false [])
    | (.never, t) => t

/-- RGN.READ `off, cnt` (R100). -/
def execRgnRead (off cnt : Word) (s : State) : Host.Outcome State Fault Refusal :=
  .next (regionTransaction (.read off.toNat cnt.toNat) s)

/-- RGN.PROG `off, bytes` (R101). -/
def execRgnProg (off : Word) (wdata : List Byte) (s : State) : Host.Outcome State Fault Refusal :=
  .next (regionTransaction (.prog off.toNat wdata) s)

/-- RGN.ERASE `off, cnt` (R102). -/
def execRgnErase (off cnt : Word) (s : State) : Host.Outcome State Fault Refusal :=
  .next (regionTransaction (.erase off.toNat cnt.toNat) s)

end Sys2Proof.Machine
end

