-- ==== Sys2Proof/Machine/Crc.lean ====
section
/-! DEFINITION. The CRC unit (spec 41_crc.md): the update step R120, the checksum R124, the optional
table form R126, and CRC.INIT, CRC.BYTE, CRC.FINAL (R121 to R123). -/

namespace Sys2Proof.Machine

/-- One of the eight iterations of R120. -/
def crcBit (c : Word) : Word :=
  if c.getLsbD 0 then (c >>> 1) ^^^ crcPoly else c >>> 1

/-- `n` iterations of R120. -/
def crcBits : Nat → Word → Word
  | 0, c => c
  | n + 1, c => crcBits n (crcBit c)

/-- `crc_step(c, b)` (R120). -/
def crcStep (c : Word) (b : Byte) : Word := crcBits 8 (c ^^^ b.setWidth 32)

/-- The register after CRC.INIT and one CRC.BYTE for each byte, in ascending index order (R124, R128). -/
def crcRun (bs : List Byte) : Word := bs.foldl crcStep crcInitValue

/-- `CRC32(B)` (R124). -/
def crc32 (bs : List Byte) : Word := crcRun bs ^^^ crcXorOut

/-- `T[n]` of the table form (R126). -/
def crcTable (n : Byte) : Word := crcBits 8 (n.setWidth 32)

/-- The step in its table form (R126). -/
def crcStepTable (c : Word) (b : Byte) : Word :=
  crcTable ((c ^^^ b.setWidth 32).setWidth 8) ^^^ (c >>> 8)

/-- CRC.INIT (R121). -/
def execCrcInit (s : State) : Host.Outcome State Fault Refusal :=
  .next ((s.setCrc crcInitValue).reply .done)

/-- CRC.BYTE `b` (R122). -/
def execCrcByte (b : Byte) (s : State) : Host.Outcome State Fault Refusal :=
  .next (((s.noteRead s.written.crc).setCrc (crcStep s.crc b)).reply .done)

/-- CRC.FINAL (R123): the complement is answered, `crc` keeps its value. -/
def execCrcFinal (s : State) : Host.Outcome State Fault Refusal :=
  .next ((s.noteRead s.written.crc).reply (.value (s.crc ^^^ crcXorOut)))

end Sys2Proof.Machine
end

