-- ==== Sys2Proof/Machine/Codec.lean ====
section
/-! DEFINITION. The codec unit (spec 42_codec.md): validity R148, named values R150, and REC.ENC,
REC.DEC, REC.CSUM, REC.VALID (R144 to R147), each as an operation the store unit uses and as the meaning
of a request at the codec port. -/

namespace Sys2Proof.Machine

/-- The bytes a checksum covers: every byte before it (R148). -/
def covered (c : Config) (image : List Byte) : List Byte := image.take c.csOff

/-- The checksum of a record's own bytes (R148). -/
def recordCsum (c : Config) (r : Record) : Word := crc32 (covered c (encodeRecord c r))

/-- `is_valid(r)` (R148). -/
def recordValid (c : Config) (r : Record) : Bool := recordCsum c r == r.checksum

/-- `ERASED_CSUM` (R150). -/
def erasedCsum (c : Config) : Word := crc32 (rep erasedByte c.csOff)

/-- `REINIT_REC` (R150). -/
def reinitRecord (c : Config) : Record := { c.erasedRecord with checksum := erasedCsum c }

/-- `img <- encode(rec)` (R144). -/
def State.recEnc (s : State) : State :=
  (s.noteRead s.written.record).setImg (encodeRecord s.cfg s.record)

/-- `rec <- decode(img)` (R145). -/
def State.recDec (s : State) : State :=
  (s.noteRead s.written.img).setRecord (decodeRecord s.cfg s.img)

/-- The value REC.CSUM answers (R146). -/
def State.csumValue (s : State) : Word := crc32 (covered s.cfg s.img)

/-- REC.CSUM's effect: CRC.INIT and CRC.BYTE over the covered bytes of `img` leave the uncomplemented
remainder in `crc` (R146, R128). -/
def State.recCsum (s : State) : State :=
  (s.noteRead s.written.img).setCrc (crcRun (covered s.cfg s.img))

/-- The value REC.VALID answers (R147). -/
def State.validValue (s : State) : Bool := recordValid s.cfg s.record

/-- REC.VALID's effect: the remainder over the covered bytes of the multiplexer's output (R147). -/
def State.recValid (s : State) : State :=
  (s.noteRead s.written.record).setCrc (crcRun (covered s.cfg (encodeRecord s.cfg s.record)))

/-- REC.ENC (R144). -/
def execRecEnc (s : State) : Host.Outcome State Fault Refusal :=
  .next (s.recEnc.reply .done)

/-- REC.DEC (R145). -/
def execRecDec (s : State) : Host.Outcome State Fault Refusal :=
  .next (s.recDec.reply .done)

/-- REC.CSUM (R146). -/
def execRecCsum (s : State) : Host.Outcome State Fault Refusal :=
  .next (s.recCsum.reply (.value s.csumValue))

/-- REC.VALID (R147). -/
def execRecValid (s : State) : Host.Outcome State Fault Refusal :=
  .next (s.recValid.reply (.valid s.validValue))

end Sys2Proof.Machine
end

