-- ==== Sys2Proof/Machine/Store.lean ====
section
/-! DEFINITION. The store unit (spec 43_block_store.md): the building blocks R161, R162, R163, R166, the
prologue R167, the scans R170 and R171, the compaction R168, and CFG.READ (R164), CFG.WRITE (R169). A
command is one step from an idle state to an idle or FAULT state (R160); only a region request that is
never answered leaves it running (R241). -/

namespace Sys2Proof.Machine

/-- A command's sequence after one of its parts: it goes on, or it has ended (an error kind was raised) or
waits for a region response that never comes. -/
inductive Flow where
  | go (s : State)
  | ended (s : State)

/-- A region request of a store command joins the event trace (R179). -/
def State.traced (s : State) (q : RgnRequest) : State := { s with trace := s.trace ++ [q] }

/-- A region request of a store command: a failing one raises HardwareFault (R15, R203). The
continuation receives the bytes read and the state. -/
def storeAccess (q : RgnRequest) (s : State) (andThen : List Byte → State → State) : Flow :=
  match regionPort q (s.traced q) with
  | (.ok data, t) => .go (andThen data t)
  | (.fail, t) => .ended (t.raise .hardwareFault)
  | (.never, t) => .ended t

/-- `LoadSlot(i)` (R161): one region read into `img` and one decode. -/
def loadSlot (i : Nat) (s : State) : Flow :=
  storeAccess (.read (s.cfg.slotOff i) s.cfg.recordSize) s (fun data t => (t.setImg data).recDec)

/-- `ProgSlot(i)` (R162): one region program of the whole image. -/
def progSlot (i : Nat) (s : State) : Flow :=
  storeAccess (.prog (s.cfg.slotOff i) s.img) s (fun _ t => t)

/-- `rec.checksum <- v` (R163). -/
def State.setChecksum (s : State) (v : Word) : State := s.setRecord { s.record with checksum := v }

/-- `Seal` (R163): REC.ENC, REC.CSUM, store the checksum, REC.ENC. -/
def State.sealed (s : State) : State :=
  let t := s.recEnc
  (t.recCsum.setChecksum t.csumValue).recEnc

/-- `Update(len, wdata)` (R166). -/
def State.updated (s : State) (len : Nat) (wdata : List Byte) : State :=
  s.setRecord { s.record with blockId := writtenId, payloadA := overlay len wdata s.record.payloadA }

/-- `img <- ERASED_IMG; REC.DEC` (R168). -/
def State.loadErased (s : State) : State := (s.setImg s.cfg.erasedImg).recDec

/-- The end of a command with status OK (R164, R169). -/
def State.finish (s : State) (rlen : BitVec 4) (rdata : List Byte) : State :=
  (s.respond .ok rlen rdata).setSeq .idle

/-- The end of a write with status OK (R169). -/
def State.finishWrite (s : State) : State := s.finish 0 (rep 0x00 8)

/-- The part of a command after a flow. -/
def Flow.andThen (f : Flow) (k : State → State) : State :=
  match f with
  | .go s => k s
  | .ended s => s

/-- A scan in ascending slot order from `ptr` over `n` slots (R164, R169): the first slot whose record
passes `test` is `found`; past the last slot the scan is `exhausted`. -/
def scan (test : Record → Bool) (found exhausted : State → State) : Nat → State → State
  | 0, s => exhausted s
  | n + 1, s =>
    (loadSlot s.ptr.toNat s).andThen fun t =>
      if test t.record then found t else scan test found exhausted n (t.setPtr (t.ptr + 1))

/-- The prologue of both commands (R167 steps 1 and 3; step 2, the illegal header, is
`illegalStoreRequest`). A request presented while a command runs is not accepted (R160). -/
def storeCommand (bufp : Bool) (arg : Byte) (body : State → State) (s : State) : State :=
  if s.busy then s
  else
    let t := { s with trace := [] }
    if t.seq = .fault then t.respondEmpty .hardwareFault
    else if badLength bufp arg then t.raise .invalidLength
    else body t

/-- A header on the store port that is neither command (R90, R205), after R167 step 1 (R207). -/
def illegalStoreRequest (s : State) : State :=
  if s.busy then s
  else
    let t := { s with trace := [] }
    if t.seq = .fault then t.respondEmpty .hardwareFault else t.raise .illegalRequest

/-- CFG.READ at an occupied slot (R164): the check when `VERIFY_ON_READ` (R206), then the payload. -/
def readFound (maxLen : Byte) (s : State) : State :=
  let answer (t : State) : State :=
    t.finish (maxLen.setWidth 4) (readBack t.record.payloadA maxLen.toNat)
  if s.cfg.verifyOnRead then
    if s.validValue then answer s.recValid else s.recValid.raise .corrupt
  else answer s

/-- The body of CFG.READ after its prologue (R164). -/
def readBody (maxLen : Byte) (s : State) : State :=
  scan Record.occupied (readFound maxLen) (fun t => t.raise .notFound) s.cfg.recordCount
    ((s.setSeq .rdScan).setPtr 0)

/-- CFG.WRITE at a matching slot (R169). -/
def commit (len : Byte) (wdata : List Byte) (s : State) : State :=
  (progSlot s.ptr.toNat (((s.setSeq .wrCommit).updated len.toNat wdata).sealed)).andThen State.finishWrite

/-- The third stage of compaction (R168): `n` slots from `ptr` on take `encode(REINIT_REC)`. -/
def reinitSlots : Nat → State → Flow
  | 0, s => .go s
  | n + 1, s =>
    match progSlot s.ptr.toNat s.loadErased.sealed with
    | .ended t => .ended t
    | .go t => reinitSlots n (t.setPtr (t.ptr + 1))

/-- The second stage of compaction (R168): the new payload into slot 0. -/
def compactSlot0 (len : Byte) (wdata : List Byte) (s : State) : Flow :=
  progSlot 0 ((((s.setSeq .cpSlot0).loadErased.updated len.toNat wdata).sealed).setPtr 0)

/-- `Compact(len, wdata)` and the end of the command (R168, R169). -/
def compact (len : Byte) (wdata : List Byte) (s : State) : State :=
  (storeAccess (.erase 0 s.cfg.regionSize) (s.setSeq .cpErase) (fun _ t => t)).andThen fun t =>
    (compactSlot0 len wdata t).andThen fun u =>
      (reinitSlots (u.cfg.recordCount - 1) ((u.setSeq .cpReinit).setPtr 1)).andThen fun v =>
        (v.setPtr 0).finishWrite

/-- The body of CFG.WRITE after its prologue (R169). -/
def writeBody (len : Byte) (wdata : List Byte) (s : State) : State :=
  scan Record.isMatching (commit len wdata) (compact len wdata) s.cfg.recordCount
    ((s.setSeq .wrScan).setPtr 0)

/-- CFG.READ `max_len` (R164). -/
def execCfgRead (bufp : Bool) (maxLen : Byte) (s : State) : Host.Outcome State Fault Refusal :=
  .next (storeCommand bufp maxLen (readBody maxLen) s)

/-- CFG.WRITE `len, bytes` (R169). -/
def execCfgWrite (bufp : Bool) (len : Byte) (wdata : List Byte) (s : State) :
    Host.Outcome State Fault Refusal :=
  .next (storeCommand bufp len (writeBody len wdata) s)

end Sys2Proof.Machine
end

