-- ==== Sys2Proof/Machine/Dispatch.lean ====
section
/-! DEFINITION. The dispatch: one arm per constructor of Instr, each one call of its meaning. -/

namespace Sys2Proof.Machine

/-- The meaning of each request (spec R4). -/
def exec (i : Instr) (s : State) : Host.Outcome State Fault Refusal :=
  match i with
  | .crcInit => Sys2Proof.Machine.execCrcInit s
  | .crcByte b => Sys2Proof.Machine.execCrcByte b s
  | .crcFinal => Sys2Proof.Machine.execCrcFinal s
  | .recEnc => Sys2Proof.Machine.execRecEnc s
  | .recDec => Sys2Proof.Machine.execRecDec s
  | .recCsum => Sys2Proof.Machine.execRecCsum s
  | .recValid => Sys2Proof.Machine.execRecValid s
  | .rgnRead off cnt => Sys2Proof.Machine.execRgnRead off cnt s
  | .rgnProg off wdata => Sys2Proof.Machine.execRgnProg off wdata s
  | .rgnErase off cnt => Sys2Proof.Machine.execRgnErase off cnt s
  | .cfgRead bufp maxLen => Sys2Proof.Machine.execCfgRead bufp maxLen s
  | .cfgWrite bufp len wdata => Sys2Proof.Machine.execCfgWrite bufp len wdata s

end Sys2Proof.Machine
end

