-- ==== Sys2Proof/Machine/Inputs.lean ====
section
/-! DEFINITION. What the machine does next (spec 10_state.md R33, 43_block_store.md R160,
70_reset_and_hazards.md R230, R241): the next input, and the answer to a request that is no request of its
port (30_encoding.md R90). -/

namespace Sys2Proof.Machine

/-- What `step` finds to do. -/
inductive Pending where
  /-- nothing: CORE is idle without an input, or waits for a region response (R241) -/
  | wait
  /-- a reset, with its draw and the inputs after it -/
  | reset (draw : Nat) (rest : List Input)
  /-- an access of the platform, with the inputs after it -/
  | platform (q : RgnRequest) (rest : List Input)
  /-- a request the ports accept, with the inputs after it -/
  | request (r : Request) (rest : List Input)
  /-- a running command without a region request in flight: no run reaches this -/
  | lost

/-- The first reset among the inputs, and the others in order: a request presented meanwhile is not
accepted and stays presented, and the platform has no move (R160, R64; log entry 13). -/
def firstReset : List Input → Option (Nat × List Input)
  | [] => none
  | .reset draw :: rest => some (draw, rest)
  | .request r :: rest => (firstReset rest).map fun p => (p.1, .request r :: p.2)
  | .platform q :: rest => (firstReset rest).map fun p => (p.1, .platform q :: p.2)

/-- What a busy machine does: it leaves only by reset (R230, R241). -/
def State.pendingBusy (s : State) : Pending :=
  match firstReset s.inputs with
  | some p => .reset p.1 p.2
  | none => if s.inflight.isSome then .wait else .lost

/-- What an idle machine does: it takes its inputs in order (R160, R230). -/
def State.pendingIdle (s : State) : Pending :=
  match s.inputs with
  | [] => .wait
  | .reset draw :: rest => .reset draw rest
  | .platform q :: rest => .platform q rest
  | .request r :: rest => .request r rest

/-- The next thing to do. -/
def State.pending (s : State) : Pending :=
  if s.busy then s.pendingBusy else s.pendingIdle

/-- The platform reads, programs or erases its region while no command runs (R64); an access outside the
region touches nothing of it. -/
def State.platformAccess (s : State) (q : RgnRequest) : State :=
  if q.inRange s.cfg then s.setRgn (q.apply s.rgn) else s

/-- The inputs still to come. -/
def State.withInputs (s : State) (rest : List Input) : State := { s with inputs := rest }

/-- A request that decodes to no instruction: on the store port the answer IllegalRequest, or HardwareFault
in FAULT (R90, R205, R207); on an internal port there is no step (R90, R81). -/
def rejectRequest (p : Port) (e : DecodeError) (s : State) : Host.Outcome State Fault Refusal :=
  match p with
  | .store => .next (illegalStoreRequest s)
  | .crc => .refused .unmatchedHeader
  | .codec => .refused .unmatchedHeader
  | .region =>
    match e with
    | .wdataLength => .refused .wdataLength
    | .reservedSelector => .refused .unmatchedHeader
    | .nonzeroField => .refused .unmatchedHeader
    | .wrongPort => .refused .unmatchedHeader

/-- The state with a request in front of the inputs, nothing in flight and no command running. -/
def State.present (s : State) (r : Request) : State :=
  { s with
    inputs := .request r :: s.inputs
    inflight := none
    seq := if s.seq.running then .idle else s.seq }

end Sys2Proof.Machine
end

