-- ==== Sys2Proof/Machine/Step.lean ====
section
/-! DEFINITION. One step of the machine: a request accepted and performed to completion (spec 30_encoding.md
R80, 43_block_store.md R160), an access of the platform (20_memory.md R64),
a reset (70_reset_and_hazards.md R230), or waiting. -/

namespace Sys2Proof.Machine

/-- The request's instruction, or the answer to a request that is none. -/
def perform (r : Request) (s : State) : Host.Outcome State Fault Refusal :=
  match decode r with
  | .ok i => exec i s
  | .error e => rejectRequest r.port e s

/-- One step. -/
def step (s : State) : Host.Outcome State Fault Refusal :=
  if s.cfg.legal then
    match s.pending with
    | .wait => .next s
    | .reset draw rest => .next ((s.withInputs rest).resetBy draw)
    | .platform q rest => .next ((s.withInputs rest).platformAccess q)
    | .request r rest => perform r (s.withInputs rest)
    | .lost => .fault .lostSequencer
  else .refused .illegalConfiguration

/-- The state whose next step performs the opcode-table row with bits `w` and a side band of zeros: CORE
fetches nothing, so the request is put in front of the inputs (log entry 8). -/
def State.withFetchWord (s : State) (nbits w : Nat) : State :=
  s.present (tableRequest nbits w)

end Sys2Proof.Machine
end

