-- ==== Sys2Proof/Safety.lean ====
section
/-! DEFINITION. The terms claims are stated in: the region's slots and classes (spec 43_block_store.md
R175), requests that succeed (40_region_ops.md R104), requests the store may issue (20_memory.md R54),
and the invariant of the machine. -/

namespace Sys2Proof.Machine

/-- The image slot `i` holds (R53). -/
def State.slotImg (s : State) (i : Nat) : List Byte :=
  s.rgn.readBytes (s.cfg.slotOff i) s.cfg.recordSize

/-- The record slot `i` holds. -/
def State.slotRec (s : State) (i : Nat) : Record := decodeRecord s.cfg (s.slotImg i)

/-- `id_i` (R175). -/
def State.slotId (s : State) (i : Nat) : Word := (s.slotRec i).blockId

/-- Class EMPTY (R175). -/
def State.classEmpty (s : State) : Prop := ∀ i < s.cfg.recordCount, s.slotId i = erasedId

/-- Class WRITTEN (R175). -/
def State.classWritten (s : State) : Prop :=
  s.slotId 0 = writtenId ∧ ∀ i < s.cfg.recordCount, 1 ≤ i → s.slotId i = erasedId

/-- Class EXHAUSTED (R175). -/
def State.classExhausted (s : State) : Prop :=
  ∀ i < s.cfg.recordCount, s.slotId i ≠ erasedId ∧ s.slotId i ≠ writtenId

/-- Class IRREGULAR (R175). -/
def State.classIrregular (s : State) : Prop :=
  ¬ s.classEmpty ∧ ¬ s.classWritten ∧ ¬ s.classExhausted

/-- The first slot whose record passes a scan test. -/
def State.firstSlot (s : State) (test : Record → Bool) (m : Nat) : Prop :=
  m < s.cfg.recordCount ∧ test (s.slotRec m) = true ∧ ∀ i < m, test (s.slotRec i) = false

/-- No slot's record passes a scan test. -/
def State.noSlot (s : State) (test : Record → Bool) : Prop :=
  ∀ i < s.cfg.recordCount, test (s.slotRec i) = false

/-- The platform answers the next `k` requests with success (R104, R176). -/
def State.okFor (s : State) (k : Nat) : Prop := ∀ j < k, s.answers.getD j .ok = .ok

/-- The store port accepts a request and is not in FAULT. -/
def State.ready (s : State) : Prop := s.seq = .idle ∧ s.inflight = none

/-- The reads of slots `0` to `m` in order (R179). -/
def scanTrace (c : Config) (m : Nat) : List RgnRequest :=
  (List.range (m + 1)).map fun i => .read (c.slotOff i) c.recordSize

/-- Requests performed one after the other (R80), as the test programs of the spec are written (R94). -/
def execAll : List Instr → State → Host.Outcome State Fault Refusal
  | [], s => .next s
  | i :: rest, s =>
    match exec i s with
    | .next t => execAll rest t
    | .fault f => .fault f
    | .refused r => .refused r

/-- A byte sequence with bit `k` flipped, bits counted from bit 0 of byte 0 (R127). -/
def flipBit (bs : List Byte) (k : Nat) : List Byte :=
  bs.set (k / 8) (bs.getD (k / 8) 0 ^^^ BitVec.twoPow 8 (k % 8))

/-- The record a write leaves in a slot whose record was `old` (R166, R163): the written marker, the new
payload bytes before the old tail, the other fields kept, the checksum recomputed. -/
def rewritten (c : Config) (old : Record) (len : Nat) (wdata : List Byte) : Record :=
  let r : Record := { old with blockId := writtenId, payloadA := wdata.take len ++ old.payloadA.drop len }
  { r with checksum := recordCsum c r }

/-- The machine's invariant. -/
structure State.Inv (s : State) : Prop where
  /-- R10, U16 -/
  legal : s.cfg.legal = true
  /-- R32 -/
  memWf : s.rgn.wf
  /-- R32, R50 -/
  memBound : ∀ c ∈ s.rgn, c.1 < s.cfg.regionSize
  /-- R23 -/
  imgLen : s.img.length = s.cfg.recordSize
  /-- R22 -/
  recSized : s.record.sized s.cfg = true
  /-- R25 -/
  ptrRange : s.ptr.toNat ≤ s.cfg.recordCount
  /-- R27 -/
  faultSeq : s.fault = true ↔ s.seq = .fault
  /-- R201, R207: in FAULT every response so far was HardwareFault -/
  faultStatus : s.seq = .fault → s.status = .hardwareFault
  /-- R28: the kind Corrupt only when verifying -/
  corruptKind : s.status = .corrupt → s.cfg.verifyOnRead = true
  /-- R29 -/
  rlenRange : s.rlen.toNat ≤ 8
  /-- R29 -/
  rdataLen : s.rdata.length = 8
  /-- R29: data only with status OK -/
  rlenOk : s.status ≠ .ok → s.rlen = 0
  /-- R29: zero bytes beyond `rlen` -/
  rdataZero : ∀ k, s.rlen.toNat ≤ k → k < 8 → s.rdata[k]? = some 0
  /-- R160, R241: a command between steps waits for a region response -/
  running : s.seq.running = true → s.inflight.isSome = true
  /-- R68: only a request in range reaches the platform -/
  inflightRange : ∀ q, s.inflight = some q → q.inRange s.cfg = true
  /-- R54: a store command never asks for a byte outside the region -/
  traceRange : ∀ q ∈ s.trace, q.inRange s.cfg = true

end Sys2Proof.Machine
end

