-- ==== Sys2Proof/Certificates/Slice0/Obligations.lean ====
section
/-! DEFINITION. The statements for the provers. Each docstring names the rule of spec/ it formalises.
Clauses about `resp` (log entry 16), `trace` (log entry 17), `inputs` and `answers` (log entries 8 and 9),
`inflight` (log entries 11 and 32), `written` and `testFault` (log entry 7) say how the model records what those rules
say of responses, event traces, inputs and unwritten registers. -/

open Sys2Proof Sys2Proof.Machine

/-! ### Encoding -/

/-- R81, R83 to R87: a well-formed instruction, encoded, decodes to itself. -/
def Obligations.DecodeEncodeRoundTrip : Prop :=
  ∀ i : Instr, i.wellFormed = true → decode (encode i) = .ok i

/-- R81: whatever the decoder accepts has the side-band shape of R81. -/
def Obligations.DecodedRequestIsWellFormed : Prop :=
  ∀ (r : Request) (i : Instr), decode r = .ok i → i.wellFormed = true

/-- R87: `(H and mask) = match` selects a row, and no header matches two rows. -/
def Obligations.HeaderSelectsAtMostOneRow : Prop :=
  (∀ (h : Header) (op op' : Op), op.selects h = true → op'.selects h = true → op = op') ∧
    ∀ (h : Header) (op : Op), decodeOp h = some op ↔ h &&& op.mask = op.pattern

/-- R90, R95: the headers the store port takes are those with selector C or D and `H[11:9] = 000`. -/
def Obligations.StoreHeaderLegality : Prop :=
  ∀ r : Request, r.port = .store →
    ((∃ i, decode r = .ok i) ↔
      (Header.sel r.hdr = 0xC ∨ Header.sel r.hdr = 0xD) ∧ Header.z r.hdr = 0)

/-- R95: each port accepts only its own selectors. -/
def Obligations.PortsAcceptOwnSelectors : Prop :=
  ∀ (r : Request) (i : Instr), decode r = .ok i →
    match r.port with
    | .crc => 1 ≤ (Header.sel r.hdr).toNat ∧ (Header.sel r.hdr).toNat ≤ 3
    | .codec => 4 ≤ (Header.sel r.hdr).toNat ∧ (Header.sel r.hdr).toNat ≤ 7
    | .region => 8 ≤ (Header.sel r.hdr).toNat ∧ (Header.sel r.hdr).toNat ≤ 10
    | .store => (Header.sel r.hdr).toNat = 12 ∨ (Header.sel r.hdr).toNat = 13

/-- R87: one word of each family, written out from the selector map. -/
def Obligations.SpecHeadersDecode : Prop :=
  decodeTableWord 16 0b0010000000110001 = some (.crcByte 0x31) ∧
  decodeTableWord 16 0b0110000000000000 = some .recCsum ∧
  decodeTableWord 16 0b1010000000000000 = some (.rgnErase 0 0) ∧
  decodeTableWord 16 0b1100000100000011 = some (.cfgRead true 3) ∧
  decodeTableWord 16 0b1101000000001000 = some (.cfgWrite false 8 (rep 0 8)) ∧
  decodeTableWord 16 0b1011000000000000 = none

/-- R93: the headers of the textual form, for every operand. -/
def Obligations.TextualFormHeaders : Prop :=
  ∀ n : Byte,
    (encode (.crcByte n)).hdr = 0x2000 + n.setWidth 16 ∧
    (encode (.cfgRead true n)).hdr = 0xC100 + n.setWidth 16 ∧
    (encode (.cfgRead false n)).hdr = 0xC000 + n.setWidth 16 ∧
    ∀ wdata, (encode (.cfgWrite true n wdata)).hdr = 0xD100 + n.setWidth 16 ∧
      (encode (.cfgWrite false n wdata)).hdr = 0xD000 + n.setWidth 16

/-! ### Codes -/

/-- R28, R200, R26: the codes of `status` and of `seq`, as the values named in the other statements are
written in the registers (log entry 22); no code stands for two values, and 6 and 7 are no code of
`status`. -/
def Obligations.StatusAndSequencerCodes : Prop :=
  (Kind.ok.code = 0 ∧ Kind.invalidLength.code = 1 ∧ Kind.notFound.code = 2 ∧ Kind.hardwareFault.code = 3 ∧
    Kind.corrupt.code = 4 ∧ Kind.illegalRequest.code = 5) ∧
  (Seq.idle.code = 0 ∧ Seq.rdScan.code = 1 ∧ Seq.wrScan.code = 2 ∧ Seq.wrCommit.code = 3 ∧
    Seq.cpErase.code = 4 ∧ Seq.cpSlot0.code = 5 ∧ Seq.cpReinit.code = 6 ∧ Seq.fault.code = 7) ∧
  (∀ k k' : Kind, k.code = k'.code → k = k') ∧ (∀ q q' : Seq, q.code = q'.code → q = q') ∧
  ∀ k : Kind, k.code ≠ 6 ∧ k.code ≠ 7

/-! ### Reset -/

/-- R40: the reset values the spec gives. -/
def Obligations.ResetHoldsSpecValues : Prop :=
  State.reset.seq = .idle ∧ State.reset.fault = false ∧ State.reset.status = .ok ∧
    State.reset.rlen = 0 ∧ State.reset.rdata = rep 0x00 8 ∧ ∀ a, State.reset.rgn.read a = 0xFF

/-- The state after reset satisfies the invariant (the values of the registers R40 leaves unspecified are
the model's choice: log entries 3 to 6). -/
def Obligations.ResetSatisfiesInvariant : Prop := State.reset.Inv

/-- R230: a reset at any moment, also in FAULT and while a command runs, gives the control and response
registers the values of R40; the abandoned command sends no response; without a request in flight the
region is untouched. -/
def Obligations.ResetWritesControlRegisters : Prop :=
  ∀ (s : State) (draw : Nat) (rest : List Input), s.cfg.legal = true →
    (s.busy = false ∧ s.inputs = .reset draw :: rest ∨
      s.busy = true ∧ firstReset s.inputs = some (draw, rest)) →
    ∃ t, step s = .next t ∧ t.seq = .idle ∧ t.fault = false ∧ t.status = .ok ∧ t.rlen = 0 ∧
      t.rdata = rep 0x00 8 ∧ t.resp = none ∧ t.inflight = none ∧ t.inputs = rest ∧ t.cfg = s.cfg ∧
      t.answers = s.answers ∧ (s.inflight = none → t.rgn = s.rgn)

/-- R236: power loss or reset while a program or erase is in flight leaves each byte of its range old or
new by one bit of the draw, and every other byte as it was; a read in flight changes nothing. -/
def Obligations.InterruptedRequestLeavesMix : Prop :=
  ∀ (s : State) (draw : Nat) (rest : List Input) (q : RgnRequest), s.cfg.legal = true → s.rgn.wf →
    s.inflight = some q → firstReset s.inputs = some (draw, rest) →
    ∃ t, step s = .next t ∧ ∀ a, t.rgn.read a =
      match q with
      | .read _ _ => s.rgn.read a
      | .prog off bytes =>
        if off ≤ a ∧ a < off + bytes.length ∧ draw.testBit (a - off) = true then bytes.getD (a - off) 0xFF
        else s.rgn.read a
      | .erase off cnt =>
        if off ≤ a ∧ a < off + cnt ∧ draw.testBit (a - off) = true then 0xFF else s.rgn.read a

/-- R105, R236: every choice of old or new, byte by byte, is what some draw leaves. -/
def Obligations.EveryPerByteMixIsAdmitted : Prop :=
  ∀ (q : RgnRequest) (m : Memory) (choice : Nat → Bool), m.wf →
    ∃ draw, ∀ k < q.newBytes.length,
      (q.applyPartial draw m).read (q.off + k) =
        if choice k then q.newBytes.getD k 0xFF else m.read (q.off + k)

/-! ### CRC unit -/

/-- R121 (`written`: the model's record of R38, log entry 7). -/
def Obligations.CrcInitResult : Prop :=
  (encode .crcInit).hdr = 0x1000 ∧ ∀ s : State,
    exec .crcInit s = .next { s with
      crc := 0xFFFFFFFF, written := { s.written with crc := true }, resp := some .done }

/-- R122, R120: `crc <- crc_step(crc, b)`; nothing else but the response and the model's record of R38
(`written`, `testFault`: log entry 7). -/
def Obligations.CrcByteResult : Prop :=
  (∀ b : Byte, (encode (.crcByte b)).hdr = 0x2000 + b.setWidth 16) ∧ ∀ (s : State) (b : Byte),
    exec (.crcByte b) s = .next { s with
      crc := crcStep s.crc b
      written := { s.written with crc := true }
      testFault := s.testFault || !s.written.crc
      resp := some .done }

/-- R123: the complement is answered and `crc` keeps its value (`testFault`: the model's record of R38, log
entry 7). -/
def Obligations.CrcFinalResult : Prop :=
  (encode .crcFinal).hdr = 0x3000 ∧ ∀ s : State,
    exec .crcFinal s = .next { s with
      testFault := s.testFault || !s.written.crc
      resp := some (.value (s.crc ^^^ 0xFFFFFFFF)) }

/-- R126: the table form, and the sample entries. -/
def Obligations.CrcStepHasTableForm : Prop :=
  (∀ (c : Word) (b : Byte),
    crcStep c b = crcTable ((c ^^^ b.setWidth 32).setWidth 8) ^^^ (c >>> 8)) ∧
  (∀ n : Byte, crcTable n = crcStep (n.setWidth 32) 0) ∧
  crcTable 0 = 0x00000000 ∧ crcTable 1 = 0x77073096 ∧ crcTable 2 = 0xEE0E612C ∧
  crcTable 3 = 0x990951BA ∧ crcTable 4 = 0x076DC419 ∧ crcTable 8 = 0x0EDB8832 ∧
  crcTable 16 = 0x1DB71064 ∧ crcTable 32 = 0x3B6E20C8 ∧ crcTable 64 = 0x76DC4190 ∧
  crcTable 128 = 0xEDB88320 ∧ crcTable 255 = 0x2D02EF8D

/-- R128, R124: `crc.init`, one `crc.byte` for each byte, `crc.final` answer `CRC32(B)` and leave its
complement in `crc`; every other register and the region stay. -/
def Obligations.CrcSequenceComputesCrc32 : Prop :=
  ∀ (bs : List Byte) (s : State),
    execAll (expandCrc32 bs) s = .next { s with
      crc := crc32 bs ^^^ 0xFFFFFFFF
      written := { s.written with crc := true }
      resp := some (.value (crc32 bs)) }

/-- R127: two byte sequences that differ in exactly one bit have different checksums. -/
def Obligations.CrcDetectsSingleBit : Prop :=
  ∀ (bs : List Byte) (k : Nat), k < 8 * bs.length → crc32 (flipBit bs k) ≠ crc32 bs

/-- R124, R125: the empty sequence and the check value. -/
def Obligations.CrcCheckValues : Prop :=
  crc32 [] = 0x00000000 ∧
    crc32 [0x31, 0x32, 0x33, 0x34, 0x35, 0x36, 0x37, 0x38, 0x39] = 0xCBF43926

/-! ### Codec unit -/

/-- R149: decode and encode are inverse. -/
def Obligations.CodecFunctionsAreInverse : Prop :=
  (∀ (c : Config) (r : Record), r.sized c = true → decodeRecord c (encodeRecord c r) = r) ∧
    ∀ (c : Config) (bs : List Byte), bs.length = c.recordSize → encodeRecord c (decodeRecord c bs) = bs

/-- R141, R140: the field byte each image byte is wired to. -/
def Obligations.ImageBytesAreWired : Prop :=
  ∀ (c : Config) (r : Record), r.sized c = true →
    (encodeRecord c r).length = c.recordSize ∧
    (∀ k < 4, (encodeRecord c r)[k]? = some (match c.endian with
      | .little => r.blockId.extractLsb' (8 * k) 8
      | .big => r.blockId.extractLsb' (24 - 8 * k) 8)) ∧
    (∀ k, 4 ≤ k → k < 12 → (encodeRecord c r)[k]? = r.payloadA[k - 4]?) ∧
    (∀ k, 12 ≤ k → k < 20 → (encodeRecord c r)[k]? = r.payloadB[k - 12]?) ∧
    (∀ k, 20 ≤ k → k < c.csOff → (encodeRecord c r)[k]? = r.reserved[k - 20]?) ∧
    ∀ j < 4, (encodeRecord c r)[c.csOff + j]? = some (match c.endian with
      | .little => r.checksum.extractLsb' (8 * j) 8
      | .big => r.checksum.extractLsb' (24 - 8 * j) 8)

/-- R144 (`written`, `testFault`: the model's record of R38, log entry 7). -/
def Obligations.RecEncResult : Prop :=
  (encode .recEnc).hdr = 0x4000 ∧ ∀ s : State,
    exec .recEnc s = .next { s with
      img := encodeRecord s.cfg s.record
      written := { s.written with img := true }
      testFault := s.testFault || !s.written.record
      resp := some .done }

/-- R145 (`written`, `testFault`: the model's record of R38, log entry 7). -/
def Obligations.RecDecResult : Prop :=
  (encode .recDec).hdr = 0x5000 ∧ ∀ s : State,
    exec .recDec s = .next { s with
      record := decodeRecord s.cfg s.img
      written := { s.written with record := true }
      testFault := s.testFault || !s.written.img
      resp := some .done }

/-- R146: the CRC-32 of the image bytes before the checksum is answered and stays complemented in `crc`;
the last four image bytes have no influence (`written`, `testFault`: the model's record of R38, log entry 7). -/
def Obligations.RecCsumResult : Prop :=
  (encode .recCsum).hdr = 0x6000 ∧
  (∀ s : State, exec .recCsum s = .next { s with
    crc := crc32 (s.img.take s.cfg.csOff) ^^^ 0xFFFFFFFF
    written := { s.written with crc := true }
    testFault := s.testFault || !s.written.img
    resp := some (.value (crc32 (s.img.take s.cfg.csOff))) }) ∧
  ∀ (s : State) (head tail tail' : List Byte), head.length = s.cfg.csOff →
    ∃ t u, exec .recCsum { s with img := head ++ tail } = .next t ∧
      exec .recCsum { s with img := head ++ tail' } = .next u ∧ t.resp = u.resp ∧ t.crc = u.crc

/-- R147: 1 exactly when the recomputed checksum equals the stored one (`written`, `testFault`: the model's
record of R38, log entry 7). -/
def Obligations.RecValidResult : Prop :=
  (encode .recValid).hdr = 0x7000 ∧ ∀ s : State,
    let v := crc32 ((encodeRecord s.cfg s.record).take s.cfg.csOff)
    exec .recValid s = .next { s with
      crc := v ^^^ 0xFFFFFFFF
      written := { s.written with crc := true }
      testFault := s.testFault || !s.written.record
      resp := some (.valid (decide (v = s.record.checksum))) }

/-- R163: after `Seal` the record is valid, the image is its encoding, `crc` is the complement of the
checksum, the other fields stay, and the old checksum never entered. -/
def Obligations.SealMakesRecordValid : Prop :=
  ∀ (s : State), s.record.sized s.cfg = true →
    recordValid s.cfg s.sealed.record = true ∧
    s.sealed.img = encodeRecord s.cfg s.sealed.record ∧
    s.sealed.crc = s.sealed.record.checksum ^^^ 0xFFFFFFFF ∧
    s.sealed.record = { s.record with checksum := s.sealed.record.checksum } ∧
    ∀ v : Word, ({ s with record := { s.record with checksum := v } } : State).sealed = s.sealed

/-- R150: ERASED_REC and REINIT_REC. -/
def Obligations.ErasedAndReinitRecords : Prop :=
  (∀ c : Config, c.erasedRecord =
    { blockId := 0xFFFFFFFF, payloadA := rep 0xFF 8, payloadB := rep 0xFF 8,
      reserved := rep 0xFF c.reservedLen, checksum := 0xFFFFFFFF }) ∧
  (∀ c : Config, recordValid c (reinitRecord c) = true) ∧
  (∀ c : Config, c.reservedLen = 256 →
    erasedCsum c = 0x9D38A78C ∧ recordValid c c.erasedRecord = false) ∧
  ∀ c : Config, c.reservedLen = 0 →
    erasedCsum c = 0x2CF772B0 ∧ recordValid c c.erasedRecord = false

/-- R127, R147, R148: flipping any one bit of a valid record's image, checksum field included, makes the
record invalid. -/
def Obligations.FlippedBitInvalidatesRecord : Prop :=
  ∀ (c : Config) (bs : List Byte) (k : Nat), bs.length = c.recordSize → k < 8 * c.recordSize →
    recordValid c (decodeRecord c bs) = true →
    recordValid c (decodeRecord c (flipBit bs k)) = false

/-! ### Region port -/

/-- R100, R103: RGN.READ. A request of no bytes is answered ok whatever the platform would answer (R103); that
it takes one entry of `answers` all the same is the model's choice (log entries 9 and 31). -/
def Obligations.RgnReadResult : Prop :=
  (∀ off cnt : Word, (encode (.rgnRead off cnt)).hdr = 0x8000) ∧
  (∀ (s : State) (off cnt : Word), s.busy = false → s.cfg.regionSize < off.toNat + cnt.toNat →
    exec (.rgnRead off cnt) s = .next { s with resp := some (.region false []) }) ∧
  (∀ (s : State) (off cnt : Word) (draw : Nat), s.busy = false → cnt ≠ 0 →
    off.toNat + cnt.toNat ≤ s.cfg.regionSize → s.nextAnswer = .fail draw →
    exec (.rgnRead off cnt) s =
      .next { s with answers := s.answers.tail, resp := some (.region false []) }) ∧
  ∀ (s : State) (off cnt : Word), s.busy = false → off.toNat + cnt.toNat ≤ s.cfg.regionSize →
    (cnt = 0 ∨ s.nextAnswer = .ok) →
    ∃ data : List Byte, data.length = cnt.toNat ∧
      (∀ k < cnt.toNat, data[k]? = some (s.rgn.read (off.toNat + k))) ∧
      exec (.rgnRead off cnt) s =
        .next { s with answers := s.answers.tail, resp := some (.region true data) }

/-- R101, R103, R105: RGN.PROG. In range and answered ok, the bytes of the range become `wdata`; failing,
each becomes `wdata` or stays by one bit of the draw; nothing outside the range changes; without bytes it is
answered ok (R103). The draw and the entry of `answers` taken: log entries 9, 10 and 31. -/
def Obligations.RgnProgResult : Prop :=
  (∀ (off : Word) (wdata : List Byte), (encode (.rgnProg off wdata)).hdr = 0x9000) ∧
  (∀ (s : State) (off : Word) (wdata : List Byte), s.busy = false →
    s.cfg.regionSize < off.toNat + wdata.length →
    exec (.rgnProg off wdata) s = .next { s with resp := some (.region false []) }) ∧
  (∀ (s : State) (off : Word) (wdata : List Byte) (draw : Nat), s.busy = false → s.rgn.wf → wdata ≠ [] →
    off.toNat + wdata.length ≤ s.cfg.regionSize → s.nextAnswer = .fail draw →
    ∃ m : Memory, (∀ a, m.read a =
        if off.toNat ≤ a ∧ a < off.toNat + wdata.length ∧ draw.testBit (a - off.toNat) = true then
          wdata.getD (a - off.toNat) 0xFF
        else s.rgn.read a) ∧
      exec (.rgnProg off wdata) s =
        .next { s with rgn := m, answers := s.answers.tail, resp := some (.region false []) }) ∧
  ∀ (s : State) (off : Word) (wdata : List Byte), s.busy = false → s.rgn.wf →
    off.toNat + wdata.length ≤ s.cfg.regionSize → (wdata = [] ∨ s.nextAnswer = .ok) →
    ∃ m : Memory, (∀ a, m.read a =
        if off.toNat ≤ a ∧ a < off.toNat + wdata.length then wdata.getD (a - off.toNat) 0xFF
        else s.rgn.read a) ∧
      exec (.rgnProg off wdata) s =
        .next { s with rgn := m, answers := s.answers.tail, resp := some (.region true []) }

/-- R102, R103, R105: RGN.ERASE, which has the effect of programming `0xFF`; without bytes it is answered ok
(R103). The draw and the entry of `answers` taken: log entries 9, 10 and 31. -/
def Obligations.RgnEraseResult : Prop :=
  (∀ off cnt : Word, (encode (.rgnErase off cnt)).hdr = 0xA000) ∧
  (∀ (s : State) (off cnt : Word), s.busy = false → s.cfg.regionSize < off.toNat + cnt.toNat →
    exec (.rgnErase off cnt) s = .next { s with resp := some (.region false []) }) ∧
  (∀ (s : State) (off cnt : Word) (draw : Nat), s.busy = false → s.rgn.wf → cnt ≠ 0 →
    off.toNat + cnt.toNat ≤ s.cfg.regionSize → s.nextAnswer = .fail draw →
    ∃ m : Memory, (∀ a, m.read a =
        if off.toNat ≤ a ∧ a < off.toNat + cnt.toNat ∧ draw.testBit (a - off.toNat) = true then 0xFF
        else s.rgn.read a) ∧
      exec (.rgnErase off cnt) s =
        .next { s with rgn := m, answers := s.answers.tail, resp := some (.region false []) }) ∧
  (∀ (s : State) (off cnt : Word), s.busy = false → s.rgn.wf →
    off.toNat + cnt.toNat ≤ s.cfg.regionSize → (cnt = 0 ∨ s.nextAnswer = .ok) →
    ∃ m : Memory, (∀ a, m.read a =
        if off.toNat ≤ a ∧ a < off.toNat + cnt.toNat then 0xFF else s.rgn.read a) ∧
      exec (.rgnErase off cnt) s =
        .next { s with rgn := m, answers := s.answers.tail, resp := some (.region true []) }) ∧
  ∀ (s : State) (off cnt : Word), (cnt = 0 ∨ s.nextAnswer ≠ .never) →
    exec (.rgnErase off cnt) s = exec (.rgnProg off (rep 0xFF cnt.toNat)) s

/-- R65, R60: after a program answered ok, a read of the same range answers exactly the bytes programmed,
whatever they were before. -/
def Obligations.ReadReturnsProgrammedBytes : Prop :=
  ∀ (s : State) (off : Word) (wdata : List Byte), s.busy = false → s.rgn.wf → s.okFor 2 →
    wdata.length < 2 ^ 32 → off.toNat + wdata.length ≤ s.cfg.regionSize →
    ∃ t u, exec (.rgnProg off wdata) s = .next t ∧
      exec (.rgnRead off (BitVec.ofNat 32 wdata.length)) t = .next u ∧
      u.resp = some (.region true wdata) ∧ u.rgn = t.rgn

/-- R61: programming or erasing a range twice leaves the region as doing it once; a read never changes the
region, whatever the platform answers, and two reads with no write between return the same bytes. -/
def Obligations.RegionRequestIsIdempotent : Prop :=
  (∀ (s : State) (off cnt : Word) (wdata : List Byte) (i : Instr), s.busy = false → s.rgn.wf → s.okFor 2 →
    (i = .rgnProg off wdata ∧ off.toNat + wdata.length ≤ s.cfg.regionSize ∨
      i = .rgnErase off cnt ∧ off.toNat + cnt.toNat ≤ s.cfg.regionSize) →
    ∃ t u, exec i s = .next t ∧ exec i t = .next u ∧ u.rgn = t.rgn ∧
      t.resp = some (.region true []) ∧ u.resp = some (.region true [])) ∧
  (∀ (s : State) (off cnt : Word), ∃ t, exec (.rgnRead off cnt) s = .next t ∧ t.rgn = s.rgn) ∧
  (∀ (off cnt : Nat) (m : Memory), (RgnRequest.read off cnt).apply m = m) ∧
  ∀ (s : State) (off cnt : Word), s.busy = false → s.okFor 2 →
    ∃ t u, exec (.rgnRead off cnt) s = .next t ∧ exec (.rgnRead off cnt) t = .next u ∧ u.resp = t.resp

/-- R241, R34, R160: a request the platform never answers stays in flight, no response is given, and
without a reset the machine stays as it is, whatever requests are presented. That this holds of every
region request in flight and of every busy machine, also with `seq` IDLE or FAULT and a unit-level region
request in flight, is the model's choice (log entries 11, 13, 23, 24 and 32). A request of no bytes is
not among them: it is answered ok (R103). -/
def Obligations.UnansweredRequestWaits : Prop :=
  (∀ (s : State) (off cnt : Word), s.busy = false → cnt ≠ 0 → off.toNat + cnt.toNat ≤ s.cfg.regionSize →
    s.nextAnswer = .never →
    exec (.rgnRead off cnt) s = .next { s with
      answers := s.answers.tail, inflight := some (.read off.toNat cnt.toNat), resp := none } ∧
    exec (.rgnErase off cnt) s = .next { s with
      answers := s.answers.tail, inflight := some (.erase off.toNat cnt.toNat), resp := none }) ∧
  (∀ (s : State) (off : Word) (wdata : List Byte), s.busy = false → wdata ≠ [] →
    off.toNat + wdata.length ≤ s.cfg.regionSize → s.nextAnswer = .never →
    exec (.rgnProg off wdata) s = .next { s with
      answers := s.answers.tail, inflight := some (.prog off.toNat wdata), resp := none }) ∧
  (∀ s : State, s.cfg.legal = true → s.inflight.isSome = true → firstReset s.inputs = none →
    step s = .next s) ∧
  ∀ (s : State) (bufp : Bool) (n : Byte) (wdata : List Byte) (off cnt : Word), s.busy = true →
    exec (.cfgRead bufp n) s = .next s ∧ exec (.cfgWrite bufp n wdata) s = .next s ∧
      exec (.rgnRead off cnt) s = .next s ∧ exec (.rgnProg off wdata) s = .next s ∧
      exec (.rgnErase off cnt) s = .next s

/-! ### Store unit: the prologue and the error kinds -/

/-- R53, R54, R55: slots lie inside the region, do not overlap and leave no gap. -/
def Obligations.SlotsTileTheRegion : Prop :=
  ∀ c : Config,
    (∀ i < c.recordCount, c.slotOff i + c.recordSize ≤ c.recordCount * c.recordSize) ∧
    c.recordCount * c.recordSize + c.tailLen = c.regionSize ∧ c.tailLen < c.recordSize ∧
    c.slotOff 0 = 0 ∧ ∀ i, c.slotOff (i + 1) = c.slotOff i + c.recordSize

/-- R207: in FAULT every request on the store port, legal or not, is answered HardwareFault with no data,
no region request and no other change; only reset leaves FAULT and clears the flag. -/
def Obligations.FaultStateAnswersHardwareFault : Prop :=
  (∀ (s : State) (r : Request) (rest : List Input), s.cfg.legal = true → s.seq = .fault →
    s.inflight = none → s.inputs = .request r :: rest → r.port = .store →
    step s = .next { s with
      inputs := rest, trace := [], status := .hardwareFault, rlen := 0, rdata := rep 0x00 8
      resp := some (.store .hardwareFault 0 (rep 0x00 8)) }) ∧
  ∀ s t : State, s.seq = .fault → s.fault = true → step s = .next t →
    (t.seq = .fault ∧ t.fault = true) ∨
      (∃ draw rest, s.pending = .reset draw rest ∧ t.seq = .idle ∧ t.fault = false)

/-- R202: a length above 8 or an absent buffer is answered InvalidLength; nothing else changes. -/
def Obligations.InvalidLengthRaised : Prop :=
  ∀ (s : State) (bufp : Bool) (n : Byte) (wdata : List Byte), s.ready →
    (8 < n.toNat ∨ bufp = false) →
    let t : State := { s with
      trace := [], status := .invalidLength, rlen := 0, rdata := rep 0x00 8
      resp := some (.store .invalidLength 0 (rep 0x00 8)) }
    exec (.cfgRead bufp n) s = .next t ∧ exec (.cfgWrite bufp n wdata) s = .next t

/-- R205, R90: a header on the store port that is neither command is answered IllegalRequest; nothing else
changes. -/
def Obligations.IllegalRequestRaised : Prop :=
  ∀ (s : State) (r : Request) (rest : List Input), s.cfg.legal = true → s.ready →
    s.inputs = .request r :: rest → r.port = .store →
    ¬ ((Header.sel r.hdr = 0xC ∨ Header.sel r.hdr = 0xD) ∧ Header.z r.hdr = 0) →
    step s = .next { s with
      inputs := rest, trace := [], status := .illegalRequest, rlen := 0, rdata := rep 0x00 8
      resp := some (.store .illegalRequest 0 (rep 0x00 8)) }

/-- R203, R179, R241: with every answer before it ok, the first failing request ends a command: its trace
stops there, `seq` is FAULT, `fault` is set, the response is HardwareFault; an unanswered request leaves it
running without a response. Each traced request consumes one answer. And it comes to that whenever the first
answer that is not ok stands among the answers to the command's requests, as R179 counts them. -/
def Obligations.FailingRequestEndsCommand : Prop :=
  (∀ (s t : State) (n : Byte) (wdata : List Byte), s.cfg.legal = true → s.ready → n.toNat ≤ 8 →
    (exec (.cfgRead true n) s = .next t ∨ exec (.cfgWrite true n wdata) s = .next t) →
    t.answers = s.answers.drop t.trace.length ∧
    (∀ j < t.trace.length, ∀ draw, s.answers[j]? = some (.fail draw) →
      j + 1 = t.trace.length ∧ t.seq = .fault ∧ t.fault = true ∧
        t.resp = some (.store .hardwareFault 0 (rep 0x00 8)) ∧ t.status = .hardwareFault ∧
        t.rlen = 0 ∧ t.rdata = rep 0x00 8) ∧
    (∀ j < t.trace.length, s.answers[j]? = some .never →
      j + 1 = t.trace.length ∧ t.seq.running = true ∧ t.resp = none ∧
        t.inflight = t.trace.getLast?) ∧
    (t.seq = .fault → ∃ j draw, j + 1 = t.trace.length ∧ s.answers[j]? = some (.fail draw))) ∧
  ∀ (s : State) (i : Instr) (n : Byte) (wdata : List Byte) (j : Nat), s.cfg.legal = true → s.ready →
    n.toNat ≤ 8 → s.okFor j → s.answers.getD j .ok ≠ .ok →
    (i = .cfgRead true n ∧ ((∃ m, s.firstSlot Record.occupied m ∧ j < m + 1) ∨
        s.noSlot Record.occupied ∧ j < s.cfg.recordCount) ∨
      i = .cfgWrite true n wdata ∧ ((∃ m, s.firstSlot Record.isMatching m ∧ j < m + 2) ∨
        s.noSlot Record.isMatching ∧ j < 2 * s.cfg.recordCount + 1)) →
    ∃ t, exec i s = .next t ∧ t.trace.length = j + 1 ∧
      ((∃ draw, s.answers[j]? = some (.fail draw) ∧ t.seq = .fault ∧ t.fault = true ∧
          t.status = .hardwareFault ∧ t.resp = some (.store .hardwareFault 0 (rep 0x00 8))) ∨
        (s.answers[j]? = some .never ∧ t.seq.running = true ∧ t.resp = none ∧
          t.inflight = t.trace.getLast?))

/-- R203, R201, R105, R237, R172: what a store command leaves that a failing or unanswered request cuts off.
CFG.WRITE: the requests before took effect, the failing one left each byte of its range old or new by a bit
of the draw, an unanswered one is in flight and has no effect yet, and nothing outside its range changed;
`ptr`, `seq` and the requests made are those of the stage, and `img` and `rec` hold what the sequence left:
nothing new, the last slot read, or the image being programmed. CFG.READ: the region and `crc` are as they
were, `ptr` is the slot being read, `img` and `rec` hold the slot before it or nothing new; a failing read
leaves nothing in flight, an unanswered one is in flight. In either command an unanswered request leaves
`fault`, `status`, `rlen` and `rdata`. -/
def Obligations.CutOffCommandByStage : Prop :=
  (∀ (s t : State) (n : Byte) (wdata : List Byte), s.cfg.legal = true → s.ready → s.rgn.wf → n.toNat ≤ 8 →
    wdata.length = 8 → exec (.cfgWrite true n wdata) s = .next t → t.seq ≠ .idle →
    (∃ done q, t.trace = done ++ [q] ∧
      let before := done.foldl (fun m p => p.apply m) s.rgn
      ((∃ draw, s.answers[done.length]? = some (.fail draw) ∧ t.seq = .fault ∧ t.inflight = none ∧
          ∀ a, t.rgn.read a =
            if q.off ≤ a ∧ a < q.off + q.newBytes.length ∧ draw.testBit (a - q.off) = true then
              q.newBytes.getD (a - q.off) 0xFF
            else before.read a) ∨
        (s.answers[done.length]? = some .never ∧ t.seq ≠ .fault ∧ t.inflight = some q ∧ t.rgn = before ∧
          t.fault = s.fault ∧ t.status = s.status ∧ t.rlen = s.rlen ∧ t.rdata = s.rdata))) ∧
    ((∃ i < s.cfg.recordCount, (∀ j < i, Record.isMatching (s.slotRec j) = false) ∧
        t.trace = scanTrace s.cfg i ∧ t.ptr = BitVec.ofNat 16 i ∧ t.crc = s.crc ∧
        (i = 0 ∧ t.img = s.img ∧ t.record = s.record ∨
          ∃ k, i = k + 1 ∧ t.img = s.slotImg k ∧ t.record = s.slotRec k) ∧
        (t.seq = .fault ∨ t.seq = .wrScan)) ∨
      (∃ m, s.firstSlot Record.isMatching m ∧
        let r := rewritten s.cfg (s.slotRec m) n.toNat wdata
        t.trace = scanTrace s.cfg m ++ [.prog (s.cfg.slotOff m) (encodeRecord s.cfg r)] ∧
        t.ptr = BitVec.ofNat 16 m ∧ t.record = r ∧ t.img = encodeRecord s.cfg r ∧
        t.crc = r.checksum ^^^ 0xFFFFFFFF ∧ (t.seq = .fault ∨ t.seq = .wrCommit)) ∨
      (s.noSlot Record.isMatching ∧
        t.trace = scanTrace s.cfg (s.cfg.recordCount - 1) ++ [.erase 0 s.cfg.regionSize] ∧
        t.ptr = BitVec.ofNat 16 s.cfg.recordCount ∧ t.crc = s.crc ∧
        t.img = s.slotImg (s.cfg.recordCount - 1) ∧ t.record = s.slotRec (s.cfg.recordCount - 1) ∧
        (t.seq = .fault ∨ t.seq = .cpErase)) ∨
      (s.noSlot Record.isMatching ∧ ∃ i < s.cfg.recordCount,
        let new := rewritten s.cfg s.cfg.erasedRecord n.toNat wdata
        let r := if i = 0 then new else reinitRecord s.cfg
        t.trace = scanTrace s.cfg (s.cfg.recordCount - 1) ++ [.erase 0 s.cfg.regionSize] ++
          [.prog 0 (encodeRecord s.cfg new)] ++
          (List.range' 1 i).map (fun k => .prog (s.cfg.slotOff k) (encodeRecord s.cfg (reinitRecord s.cfg))) ∧
        t.ptr = BitVec.ofNat 16 i ∧ t.record = r ∧ t.img = encodeRecord s.cfg r ∧
        t.crc = r.checksum ^^^ 0xFFFFFFFF ∧
        (t.seq = .fault ∨ t.seq = if i = 0 then .cpSlot0 else .cpReinit)))) ∧
  ∀ (s t : State) (n : Byte), s.cfg.legal = true → s.ready → n.toNat ≤ 8 →
    exec (.cfgRead true n) s = .next t → t.seq ≠ .idle →
    t.rgn = s.rgn ∧ t.crc = s.crc ∧ ∃ i < s.cfg.recordCount,
      (∀ j < i, Record.occupied (s.slotRec j) = false) ∧ t.trace = scanTrace s.cfg i ∧
      t.ptr = BitVec.ofNat 16 i ∧
      (i = 0 ∧ t.img = s.img ∧ t.record = s.record ∨
        ∃ k, i = k + 1 ∧ t.img = s.slotImg k ∧ t.record = s.slotRec k) ∧
      ((∃ draw, s.answers[i]? = some (.fail draw) ∧ t.seq = .fault ∧ t.inflight = none) ∨
        (s.answers[i]? = some .never ∧ t.seq = .rdScan ∧
          t.inflight = some (.read (s.cfg.slotOff i) s.cfg.recordSize) ∧
          t.fault = s.fault ∧ t.status = s.status ∧ t.rlen = s.rlen ∧ t.rdata = s.rdata))

/-- R37, R38, R31: whatever the platform answers, a store command leaves the configuration and the inputs,
reads no register that nothing has written, and keeps the canonical form of the region. -/
def Obligations.StoreCommandFrame : Prop :=
  ∀ (s t : State) (bufp : Bool) (n : Byte) (wdata : List Byte), s.cfg.legal = true →
    (exec (.cfgRead bufp n) s = .next t ∨ exec (.cfgWrite bufp n wdata) s = .next t) →
    t.cfg = s.cfg ∧ t.inputs = s.inputs ∧ t.testFault = s.testFault ∧ (s.rgn.wf → t.rgn.wf)

/-! ### Store unit: CFG.READ -/

/-- R164, R171, R179: when its requests succeed, CFG.READ returns the first occupied slot's payload;
it writes `ptr`, `img`, `rec`, `seq`, the response registers and, when verifying, `crc`. -/
def Obligations.CfgReadReturnsFirstOccupied : Prop :=
  ∀ (s : State) (n : Byte) (m : Nat), s.cfg.legal = true → s.ready → s.okFor (m + 1) → n.toNat ≤ 8 →
    s.firstSlot Record.occupied m →
    (s.cfg.verifyOnRead = true → recordValid s.cfg (s.slotRec m) = true) →
    let data := (s.slotRec m).payloadA.take n.toNat ++ rep 0x00 (8 - n.toNat)
    exec (.cfgRead true n) s = .next { s with
      status := .ok, rlen := n.setWidth 4, rdata := data
      resp := some (.store .ok (n.setWidth 4) data)
      ptr := BitVec.ofNat 16 m, img := s.slotImg m, record := s.slotRec m
      crc := if s.cfg.verifyOnRead then recordCsum s.cfg (s.slotRec m) ^^^ 0xFFFFFFFF else s.crc
      written := { crc := s.written.crc || s.cfg.verifyOnRead, record := true, img := true, ptr := true }
      trace := scanTrace s.cfg m, answers := s.answers.drop (m + 1) }

/-- R206: when verifying and the first occupied slot is not valid, CFG.READ answers Corrupt, returns no data
and looks at no later slot. -/
def Obligations.CfgReadReportsCorrupt : Prop :=
  ∀ (s : State) (n : Byte) (m : Nat), s.cfg.legal = true → s.ready → s.okFor (m + 1) → n.toNat ≤ 8 →
    s.firstSlot Record.occupied m → s.cfg.verifyOnRead = true →
    recordValid s.cfg (s.slotRec m) = false →
    exec (.cfgRead true n) s = .next { s with
      status := .corrupt, rlen := 0, rdata := rep 0x00 8
      resp := some (.store .corrupt 0 (rep 0x00 8))
      ptr := BitVec.ofNat 16 m, img := s.slotImg m, record := s.slotRec m
      crc := recordCsum s.cfg (s.slotRec m) ^^^ 0xFFFFFFFF
      written := { crc := true, record := true, img := true, ptr := true }
      trace := scanTrace s.cfg m, answers := s.answers.drop (m + 1) }

/-- R204: when every slot's `block_id` is the erased sentinel, CFG.READ answers NotFound after reading every
slot, under either `VERIFY_ON_READ`. -/
def Obligations.CfgReadReportsNotFound : Prop :=
  ∀ (s : State) (n : Byte), s.cfg.legal = true → s.ready → s.okFor s.cfg.recordCount → n.toNat ≤ 8 →
    s.classEmpty →
    exec (.cfgRead true n) s = .next { s with
      status := .notFound, rlen := 0, rdata := rep 0x00 8
      resp := some (.store .notFound 0 (rep 0x00 8))
      ptr := BitVec.ofNat 16 s.cfg.recordCount
      img := s.slotImg (s.cfg.recordCount - 1), record := s.slotRec (s.cfg.recordCount - 1)
      written := { s.written with record := true, img := true, ptr := true }
      trace := scanTrace s.cfg (s.cfg.recordCount - 1)
      answers := s.answers.drop s.cfg.recordCount }

/-- R164, R37, R206, R211: whatever the platform answers, CFG.READ never changes the region; without
`VERIFY_ON_READ` it does not write `crc` and never answers Corrupt. -/
def Obligations.CfgReadNeverChangesRegion : Prop :=
  ∀ (s t : State) (bufp : Bool) (n : Byte), s.cfg.legal = true → exec (.cfgRead bufp n) s = .next t →
    t.rgn = s.rgn ∧ (s.cfg.verifyOnRead = false →
      t.crc = s.crc ∧ (t.status = .corrupt → s.status = .corrupt))

/-! ### Store unit: CFG.WRITE -/

/-- R169, R170, R162, R163, R166: when its requests succeed, CFG.WRITE rewrites the first matching slot
`m`: its image becomes the encoding of the rewritten record, every other byte of the region stays. -/
def Obligations.CfgWriteCommitsFirstMatch : Prop :=
  ∀ (s : State) (n : Byte) (wdata : List Byte) (m : Nat), s.cfg.legal = true → s.ready → s.okFor (m + 2) →
    s.rgn.wf → n.toNat ≤ 8 → wdata.length = 8 → s.firstSlot Record.isMatching m →
    let r := rewritten s.cfg (s.slotRec m) n.toNat wdata
    let image := encodeRecord s.cfg r
    ∃ mem : Memory,
      (∀ a, mem.read a =
        if s.cfg.slotOff m ≤ a ∧ a < s.cfg.slotOff m + s.cfg.recordSize then
          image.getD (a - s.cfg.slotOff m) 0xFF
        else s.rgn.read a) ∧
      exec (.cfgWrite true n wdata) s = .next { s with
        status := .ok, rlen := 0, rdata := rep 0x00 8
        resp := some (.store .ok 0 (rep 0x00 8))
        ptr := BitVec.ofNat 16 m, img := image, record := r, crc := r.checksum ^^^ 0xFFFFFFFF
        rgn := mem
        written := { crc := true, record := true, img := true, ptr := true }
        trace := scanTrace s.cfg m ++ [.prog (s.cfg.slotOff m) image]
        answers := s.answers.drop (m + 2) }

/-- R168, R169: with no matching slot, when its requests succeed, CFG.WRITE compacts: slot 0 takes the
new payload over the erased record, every later slot `encode(REINIT_REC)`, the tail is erased, `ptr` is 0. -/
def Obligations.CfgWriteCompacts : Prop :=
  ∀ (s : State) (n : Byte) (wdata : List Byte), s.cfg.legal = true → s.ready → s.okFor (2 * s.cfg.recordCount + 1) →
    s.rgn.wf → n.toNat ≤ 8 → wdata.length = 8 → s.classExhausted →
    let r := rewritten s.cfg s.cfg.erasedRecord n.toNat wdata
    let size := s.cfg.recordSize
    let count := s.cfg.recordCount
    let last := if count = 1 then r else reinitRecord s.cfg
    ∃ mem : Memory,
      (∀ a, mem.read a =
        if a < size then (encodeRecord s.cfg r).getD a 0xFF
        else if a < count * size then (encodeRecord s.cfg (reinitRecord s.cfg)).getD (a % size) 0xFF
        else if a < s.cfg.regionSize then 0xFF
        else s.rgn.read a) ∧
      exec (.cfgWrite true n wdata) s = .next { s with
        status := .ok, rlen := 0, rdata := rep 0x00 8
        resp := some (.store .ok 0 (rep 0x00 8))
        ptr := 0, img := encodeRecord s.cfg last, record := last, crc := last.checksum ^^^ 0xFFFFFFFF
        rgn := mem
        written := { crc := true, record := true, img := true, ptr := true }
        trace := scanTrace s.cfg (count - 1) ++ [.erase 0 s.cfg.regionSize] ++
          [.prog 0 (encodeRecord s.cfg r)] ++
          (List.range' 1 (count - 1)).map
            (fun i => .prog (s.cfg.slotOff i) (encodeRecord s.cfg (reinitRecord s.cfg)))
        answers := s.answers.drop (2 * count + 1) }

/-- R169: past its prologue CFG.WRITE reports OK or HardwareFault, or waits; never NotFound, never Corrupt,
never an out-of-space condition. -/
def Obligations.CfgWriteReportsOkOrHardwareFault : Prop :=
  ∀ (s t : State) (n : Byte) (wdata : List Byte), s.cfg.legal = true → s.ready → n.toNat ≤ 8 →
    exec (.cfgWrite true n wdata) s = .next t →
    t.resp = some (.store .ok 0 (rep 0x00 8)) ∧ t.seq = .idle ∨
    t.resp = some (.store .hardwareFault 0 (rep 0x00 8)) ∧ t.seq = .fault ∨
    t.resp = none ∧ t.seq.running = true

/-! ### Store unit: properties -/

/-- R173, R174: when slot 0 matches or no slot matches, a write followed by a read of the same length returns
the bytes written. -/
def Obligations.WriteThenReadReturnsBytes : Prop :=
  ∀ (s : State) (n : Byte) (wdata : List Byte), s.cfg.legal = true → s.ready → s.rgn.wf →
    n.toNat ≤ 8 → wdata.length = 8 →
    (s.firstSlot Record.isMatching 0 ∧ s.okFor 3 ∨
      s.noSlot Record.isMatching ∧ s.okFor (2 * s.cfg.recordCount + 2)) →
    ∃ t u, exec (.cfgWrite true n wdata) s = .next t ∧ exec (.cfgRead true n) t = .next u ∧
      u.status = .ok ∧ u.rlen = n.setWidth 4 ∧ u.rdata.take n.toNat = wdata.take n.toNat

/-- R173: when slot 0 does not match and a later slot does, the write lands in the later slot and every later
read still returns slot 0's stale payload. -/
def Obligations.StaleReadBehindIrregularSlot : Prop :=
  ∀ (s : State) (n k : Byte) (wdata : List Byte) (m : Nat), s.cfg.legal = true → s.ready → s.okFor (m + 3) →
    s.rgn.wf → n.toNat ≤ 8 → k.toNat ≤ 8 → wdata.length = 8 → s.cfg.verifyOnRead = false →
    1 ≤ m → s.firstSlot Record.isMatching m →
    ∃ t u, exec (.cfgWrite true n wdata) s = .next t ∧ exec (.cfgRead true k) t = .next u ∧
      t.ptr = BitVec.ofNat 16 m ∧ u.ptr = 0 ∧ u.status = .ok ∧
      u.rdata = (s.slotRec 0).payloadA.take k.toNat ++ rep 0x00 (8 - k.toNat)

/-- R174, R169: writing the same bytes twice leaves the region byte for byte as after the first write. -/
def Obligations.RepeatedWriteLeavesRegion : Prop :=
  ∀ (s : State) (n : Byte) (wdata : List Byte), s.cfg.legal = true → s.ready → s.rgn.wf →
    n.toNat ≤ 8 → wdata.length = 8 →
    ((∃ m, s.firstSlot Record.isMatching m ∧ s.okFor (2 * m + 4)) ∨
      s.noSlot Record.isMatching ∧ s.okFor (2 * s.cfg.recordCount + 3)) →
    ∃ t u, exec (.cfgWrite true n wdata) s = .next t ∧ exec (.cfgWrite true n wdata) t = .next u ∧
      u.rgn = t.rgn ∧ u.status = .ok

/-- R175: the four classes are disjoint and cover every region content. -/
def Obligations.RegionClassesPartition : Prop :=
  ∀ s : State, s.cfg.legal = true →
    (s.classEmpty ∨ s.classWritten ∨ s.classExhausted ∨ s.classIrregular) ∧
    ¬ (s.classEmpty ∧ s.classWritten) ∧ ¬ (s.classEmpty ∧ s.classExhausted) ∧
    ¬ (s.classWritten ∧ s.classExhausted) ∧
    ¬ (s.classIrregular ∧ (s.classEmpty ∨ s.classWritten ∨ s.classExhausted))

/-- R176: a successful CFG.WRITE takes EMPTY, WRITTEN and EXHAUSTED to WRITTEN. -/
def Obligations.WriteLeadsToClassWritten : Prop :=
  ∀ (s : State) (n : Byte) (wdata : List Byte), s.cfg.legal = true → s.ready → s.rgn.wf →
    n.toNat ≤ 8 → wdata.length = 8 → ((s.classEmpty ∨ s.classWritten) ∧ s.okFor 2 ∨
      s.classExhausted ∧ s.okFor (2 * s.cfg.recordCount + 1)) →
    ∃ t, exec (.cfgWrite true n wdata) s = .next t ∧ t.status = .ok ∧ t.classWritten

/-- R231, R38, R204: a store command's response, its region requests and the region it leaves depend on the
configuration, the region and the platform's answers only, not on what the registers held. -/
def Obligations.StoreCommandIgnoresOldRegisters : Prop :=
  ∀ (s s' t t' : State) (bufp : Bool) (n : Byte) (wdata : List Byte), s.cfg.legal = true →
    s.ready → s'.ready → s'.cfg = s.cfg → s'.rgn = s.rgn → s'.answers = s.answers →
    (exec (.cfgRead bufp n) s = .next t ∧ exec (.cfgRead bufp n) s' = .next t' ∨
      exec (.cfgWrite bufp n wdata) s = .next t ∧ exec (.cfgWrite bufp n wdata) s' = .next t') →
    t'.resp = t.resp ∧ t'.rgn = t.rgn ∧ t'.seq = t.seq ∧ t'.trace = t.trace ∧
      t'.answers = t.answers ∧ t'.inflight = t.inflight

/-! ### Steps -/

/-- R80, R160: when the next input is a request that decodes to `i`, a step of an idle machine takes the
request and is exec of `i`. -/
def Obligations.StepRunsDecodedInstruction : Prop :=
  ∀ (s : State) (r : Request) (rest : List Input) (i : Instr), s.cfg.legal = true → s.busy = false →
    s.inputs = .request r :: rest → decode r = .ok i →
    step s = exec i { s with inputs := rest }

/-- R90, R81, U16 (log entries 19 to 21): a step refuses an illegal configuration, and an undecodable request
on an internal port of an idle machine, each under its name, and nothing else. -/
def Obligations.RefusedExactly : Prop :=
  ∀ (s : State) (why : Refusal), step s = .refused why ↔
    (why = .illegalConfiguration ∧ s.cfg.legal = false) ∨
    (s.cfg.legal = true ∧ s.busy = false ∧
      ∃ r rest e, s.inputs = .request r :: rest ∧ decode r = .error e ∧ r.port ≠ .store ∧
        (why = .wdataLength ∧ e = .wdataLength ∨ why = .unmatchedHeader ∧ e ≠ .wdataLength))

/-- R64: between commands the platform overwrites or erases its region freely; while a command runs it has
no move. That it has none while a unit-level region request is in flight with `seq` IDLE or FAULT either, and
that inputs presented meanwhile stay presented, is the model's choice (log entries 13, 14, 23, 24 and 32). -/
def Obligations.PlatformMovesBetweenCommands : Prop :=
  (∀ (s : State) (q : RgnRequest) (rest : List Input), s.cfg.legal = true → s.busy = false →
    s.rgn.wf → s.inputs = .platform q :: rest → q.inRange s.cfg = true →
    ∃ mem : Memory, step s = .next { s with rgn := mem, inputs := rest } ∧
      ∀ a, mem.read a = if q.off ≤ a ∧ a < q.off + q.newBytes.length then
        q.newBytes.getD (a - q.off) 0xFF else s.rgn.read a) ∧
  ∀ s t : State, s.busy = true → step s = .next t → t = s ∨
    ∃ draw rest, firstReset s.inputs = some (draw, rest) ∧ t.inputs = rest

/-- The invariant holds after every step, and no step changes the configuration (R31; R22, R23, R25, R27,
R28, R29, R32, R54, R68, R201). -/
def Obligations.StepKeepsInvariant : Prop :=
  ∀ s t : State, s.Inv → step s = .next t → t.Inv ∧ t.cfg = s.cfg

/-- Under the invariant no step faults: it answers a next state, or refuses an undecodable request on an
internal port (log entries 19, 20 and 25). -/
def Obligations.InvariantStepNeverFaults : Prop :=
  ∀ s : State, s.Inv →
    (∀ f, step s ≠ .fault f) ∧
    ((∃ t, step s = .next t) ∨
      ∃ why r rest e, step s = .refused why ∧ s.inputs = .request r :: rest ∧ r.port ≠ .store ∧
        decode r = .error e)
end

