-- ==== Sys2Proof/Laws/State.lean ====
section
/-! SUPPORT. What each update of State leaves in each field, true by definition. -/

namespace Sys2Proof.Machine

variable (s : State)

/-! ### setCrc -/

@[simp] theorem State.setCrc_cfg (v : Word) : (s.setCrc v).cfg = s.cfg := rfl
@[simp] theorem State.setCrc_crc (v : Word) : (s.setCrc v).crc = v := rfl
@[simp] theorem State.setCrc_record (v : Word) : (s.setCrc v).record = s.record := rfl
@[simp] theorem State.setCrc_img (v : Word) : (s.setCrc v).img = s.img := rfl
@[simp] theorem State.setCrc_ptr (v : Word) : (s.setCrc v).ptr = s.ptr := rfl
@[simp] theorem State.setCrc_seq (v : Word) : (s.setCrc v).seq = s.seq := rfl
@[simp] theorem State.setCrc_fault (v : Word) : (s.setCrc v).fault = s.fault := rfl
@[simp] theorem State.setCrc_status (v : Word) : (s.setCrc v).status = s.status := rfl
@[simp] theorem State.setCrc_rlen (v : Word) : (s.setCrc v).rlen = s.rlen := rfl
@[simp] theorem State.setCrc_rdata (v : Word) : (s.setCrc v).rdata = s.rdata := rfl
@[simp] theorem State.setCrc_rgn (v : Word) : (s.setCrc v).rgn = s.rgn := rfl
@[simp] theorem State.setCrc_inflight (v : Word) : (s.setCrc v).inflight = s.inflight := rfl
@[simp] theorem State.setCrc_resp (v : Word) : (s.setCrc v).resp = s.resp := rfl
@[simp] theorem State.setCrc_trace (v : Word) : (s.setCrc v).trace = s.trace := rfl
@[simp] theorem State.setCrc_inputs (v : Word) : (s.setCrc v).inputs = s.inputs := rfl
@[simp] theorem State.setCrc_answers (v : Word) : (s.setCrc v).answers = s.answers := rfl
@[simp] theorem State.setCrc_written (v : Word) : (s.setCrc v).written = { s.written with crc := true } := rfl
@[simp] theorem State.setCrc_testFault (v : Word) : (s.setCrc v).testFault = s.testFault := rfl

/-! ### setRecord -/

@[simp] theorem State.setRecord_cfg (v : Record) : (s.setRecord v).cfg = s.cfg := rfl
@[simp] theorem State.setRecord_crc (v : Record) : (s.setRecord v).crc = s.crc := rfl
@[simp] theorem State.setRecord_record (v : Record) : (s.setRecord v).record = v := rfl
@[simp] theorem State.setRecord_img (v : Record) : (s.setRecord v).img = s.img := rfl
@[simp] theorem State.setRecord_ptr (v : Record) : (s.setRecord v).ptr = s.ptr := rfl
@[simp] theorem State.setRecord_seq (v : Record) : (s.setRecord v).seq = s.seq := rfl
@[simp] theorem State.setRecord_fault (v : Record) : (s.setRecord v).fault = s.fault := rfl
@[simp] theorem State.setRecord_status (v : Record) : (s.setRecord v).status = s.status := rfl
@[simp] theorem State.setRecord_rlen (v : Record) : (s.setRecord v).rlen = s.rlen := rfl
@[simp] theorem State.setRecord_rdata (v : Record) : (s.setRecord v).rdata = s.rdata := rfl
@[simp] theorem State.setRecord_rgn (v : Record) : (s.setRecord v).rgn = s.rgn := rfl
@[simp] theorem State.setRecord_inflight (v : Record) : (s.setRecord v).inflight = s.inflight := rfl
@[simp] theorem State.setRecord_resp (v : Record) : (s.setRecord v).resp = s.resp := rfl
@[simp] theorem State.setRecord_trace (v : Record) : (s.setRecord v).trace = s.trace := rfl
@[simp] theorem State.setRecord_inputs (v : Record) : (s.setRecord v).inputs = s.inputs := rfl
@[simp] theorem State.setRecord_answers (v : Record) : (s.setRecord v).answers = s.answers := rfl
@[simp] theorem State.setRecord_written (v : Record) : (s.setRecord v).written = { s.written with record := true } := rfl
@[simp] theorem State.setRecord_testFault (v : Record) : (s.setRecord v).testFault = s.testFault := rfl

/-! ### setImg -/

@[simp] theorem State.setImg_cfg (v : List Byte) : (s.setImg v).cfg = s.cfg := rfl
@[simp] theorem State.setImg_crc (v : List Byte) : (s.setImg v).crc = s.crc := rfl
@[simp] theorem State.setImg_record (v : List Byte) : (s.setImg v).record = s.record := rfl
@[simp] theorem State.setImg_img (v : List Byte) : (s.setImg v).img = v := rfl
@[simp] theorem State.setImg_ptr (v : List Byte) : (s.setImg v).ptr = s.ptr := rfl
@[simp] theorem State.setImg_seq (v : List Byte) : (s.setImg v).seq = s.seq := rfl
@[simp] theorem State.setImg_fault (v : List Byte) : (s.setImg v).fault = s.fault := rfl
@[simp] theorem State.setImg_status (v : List Byte) : (s.setImg v).status = s.status := rfl
@[simp] theorem State.setImg_rlen (v : List Byte) : (s.setImg v).rlen = s.rlen := rfl
@[simp] theorem State.setImg_rdata (v : List Byte) : (s.setImg v).rdata = s.rdata := rfl
@[simp] theorem State.setImg_rgn (v : List Byte) : (s.setImg v).rgn = s.rgn := rfl
@[simp] theorem State.setImg_inflight (v : List Byte) : (s.setImg v).inflight = s.inflight := rfl
@[simp] theorem State.setImg_resp (v : List Byte) : (s.setImg v).resp = s.resp := rfl
@[simp] theorem State.setImg_trace (v : List Byte) : (s.setImg v).trace = s.trace := rfl
@[simp] theorem State.setImg_inputs (v : List Byte) : (s.setImg v).inputs = s.inputs := rfl
@[simp] theorem State.setImg_answers (v : List Byte) : (s.setImg v).answers = s.answers := rfl
@[simp] theorem State.setImg_written (v : List Byte) : (s.setImg v).written = { s.written with img := true } := rfl
@[simp] theorem State.setImg_testFault (v : List Byte) : (s.setImg v).testFault = s.testFault := rfl

/-! ### setPtr -/

@[simp] theorem State.setPtr_cfg (v : BitVec 16) : (s.setPtr v).cfg = s.cfg := rfl
@[simp] theorem State.setPtr_crc (v : BitVec 16) : (s.setPtr v).crc = s.crc := rfl
@[simp] theorem State.setPtr_record (v : BitVec 16) : (s.setPtr v).record = s.record := rfl
@[simp] theorem State.setPtr_img (v : BitVec 16) : (s.setPtr v).img = s.img := rfl
@[simp] theorem State.setPtr_ptr (v : BitVec 16) : (s.setPtr v).ptr = v := rfl
@[simp] theorem State.setPtr_seq (v : BitVec 16) : (s.setPtr v).seq = s.seq := rfl
@[simp] theorem State.setPtr_fault (v : BitVec 16) : (s.setPtr v).fault = s.fault := rfl
@[simp] theorem State.setPtr_status (v : BitVec 16) : (s.setPtr v).status = s.status := rfl
@[simp] theorem State.setPtr_rlen (v : BitVec 16) : (s.setPtr v).rlen = s.rlen := rfl
@[simp] theorem State.setPtr_rdata (v : BitVec 16) : (s.setPtr v).rdata = s.rdata := rfl
@[simp] theorem State.setPtr_rgn (v : BitVec 16) : (s.setPtr v).rgn = s.rgn := rfl
@[simp] theorem State.setPtr_inflight (v : BitVec 16) : (s.setPtr v).inflight = s.inflight := rfl
@[simp] theorem State.setPtr_resp (v : BitVec 16) : (s.setPtr v).resp = s.resp := rfl
@[simp] theorem State.setPtr_trace (v : BitVec 16) : (s.setPtr v).trace = s.trace := rfl
@[simp] theorem State.setPtr_inputs (v : BitVec 16) : (s.setPtr v).inputs = s.inputs := rfl
@[simp] theorem State.setPtr_answers (v : BitVec 16) : (s.setPtr v).answers = s.answers := rfl
@[simp] theorem State.setPtr_written (v : BitVec 16) : (s.setPtr v).written = { s.written with ptr := true } := rfl
@[simp] theorem State.setPtr_testFault (v : BitVec 16) : (s.setPtr v).testFault = s.testFault := rfl

/-! ### setSeq -/

@[simp] theorem State.setSeq_cfg (v : Seq) : (s.setSeq v).cfg = s.cfg := rfl
@[simp] theorem State.setSeq_crc (v : Seq) : (s.setSeq v).crc = s.crc := rfl
@[simp] theorem State.setSeq_record (v : Seq) : (s.setSeq v).record = s.record := rfl
@[simp] theorem State.setSeq_img (v : Seq) : (s.setSeq v).img = s.img := rfl
@[simp] theorem State.setSeq_ptr (v : Seq) : (s.setSeq v).ptr = s.ptr := rfl
@[simp] theorem State.setSeq_seq (v : Seq) : (s.setSeq v).seq = v := rfl
@[simp] theorem State.setSeq_fault (v : Seq) : (s.setSeq v).fault = s.fault := rfl
@[simp] theorem State.setSeq_status (v : Seq) : (s.setSeq v).status = s.status := rfl
@[simp] theorem State.setSeq_rlen (v : Seq) : (s.setSeq v).rlen = s.rlen := rfl
@[simp] theorem State.setSeq_rdata (v : Seq) : (s.setSeq v).rdata = s.rdata := rfl
@[simp] theorem State.setSeq_rgn (v : Seq) : (s.setSeq v).rgn = s.rgn := rfl
@[simp] theorem State.setSeq_inflight (v : Seq) : (s.setSeq v).inflight = s.inflight := rfl
@[simp] theorem State.setSeq_resp (v : Seq) : (s.setSeq v).resp = s.resp := rfl
@[simp] theorem State.setSeq_trace (v : Seq) : (s.setSeq v).trace = s.trace := rfl
@[simp] theorem State.setSeq_inputs (v : Seq) : (s.setSeq v).inputs = s.inputs := rfl
@[simp] theorem State.setSeq_answers (v : Seq) : (s.setSeq v).answers = s.answers := rfl
@[simp] theorem State.setSeq_written (v : Seq) : (s.setSeq v).written = s.written := rfl
@[simp] theorem State.setSeq_testFault (v : Seq) : (s.setSeq v).testFault = s.testFault := rfl

/-! ### noteRead -/

@[simp] theorem State.noteRead_cfg (w : Bool) : (s.noteRead w).cfg = s.cfg := rfl
@[simp] theorem State.noteRead_crc (w : Bool) : (s.noteRead w).crc = s.crc := rfl
@[simp] theorem State.noteRead_record (w : Bool) : (s.noteRead w).record = s.record := rfl
@[simp] theorem State.noteRead_img (w : Bool) : (s.noteRead w).img = s.img := rfl
@[simp] theorem State.noteRead_ptr (w : Bool) : (s.noteRead w).ptr = s.ptr := rfl
@[simp] theorem State.noteRead_seq (w : Bool) : (s.noteRead w).seq = s.seq := rfl
@[simp] theorem State.noteRead_fault (w : Bool) : (s.noteRead w).fault = s.fault := rfl
@[simp] theorem State.noteRead_status (w : Bool) : (s.noteRead w).status = s.status := rfl
@[simp] theorem State.noteRead_rlen (w : Bool) : (s.noteRead w).rlen = s.rlen := rfl
@[simp] theorem State.noteRead_rdata (w : Bool) : (s.noteRead w).rdata = s.rdata := rfl
@[simp] theorem State.noteRead_rgn (w : Bool) : (s.noteRead w).rgn = s.rgn := rfl
@[simp] theorem State.noteRead_inflight (w : Bool) : (s.noteRead w).inflight = s.inflight := rfl
@[simp] theorem State.noteRead_resp (w : Bool) : (s.noteRead w).resp = s.resp := rfl
@[simp] theorem State.noteRead_trace (w : Bool) : (s.noteRead w).trace = s.trace := rfl
@[simp] theorem State.noteRead_inputs (w : Bool) : (s.noteRead w).inputs = s.inputs := rfl
@[simp] theorem State.noteRead_answers (w : Bool) : (s.noteRead w).answers = s.answers := rfl
@[simp] theorem State.noteRead_written (w : Bool) : (s.noteRead w).written = s.written := rfl
@[simp] theorem State.noteRead_testFault (w : Bool) : (s.noteRead w).testFault = (s.testFault || !w) := rfl

/-! ### reply -/

@[simp] theorem State.reply_cfg (r : Response) : (s.reply r).cfg = s.cfg := rfl
@[simp] theorem State.reply_crc (r : Response) : (s.reply r).crc = s.crc := rfl
@[simp] theorem State.reply_record (r : Response) : (s.reply r).record = s.record := rfl
@[simp] theorem State.reply_img (r : Response) : (s.reply r).img = s.img := rfl
@[simp] theorem State.reply_ptr (r : Response) : (s.reply r).ptr = s.ptr := rfl
@[simp] theorem State.reply_seq (r : Response) : (s.reply r).seq = s.seq := rfl
@[simp] theorem State.reply_fault (r : Response) : (s.reply r).fault = s.fault := rfl
@[simp] theorem State.reply_status (r : Response) : (s.reply r).status = s.status := rfl
@[simp] theorem State.reply_rlen (r : Response) : (s.reply r).rlen = s.rlen := rfl
@[simp] theorem State.reply_rdata (r : Response) : (s.reply r).rdata = s.rdata := rfl
@[simp] theorem State.reply_rgn (r : Response) : (s.reply r).rgn = s.rgn := rfl
@[simp] theorem State.reply_inflight (r : Response) : (s.reply r).inflight = s.inflight := rfl
@[simp] theorem State.reply_resp (r : Response) : (s.reply r).resp = some r := rfl
@[simp] theorem State.reply_trace (r : Response) : (s.reply r).trace = s.trace := rfl
@[simp] theorem State.reply_inputs (r : Response) : (s.reply r).inputs = s.inputs := rfl
@[simp] theorem State.reply_answers (r : Response) : (s.reply r).answers = s.answers := rfl
@[simp] theorem State.reply_written (r : Response) : (s.reply r).written = s.written := rfl
@[simp] theorem State.reply_testFault (r : Response) : (s.reply r).testFault = s.testFault := rfl

/-! ### respond -/

@[simp] theorem State.respond_cfg (k : Kind) (n : BitVec 4) (d : List Byte) : (s.respond k n d).cfg = s.cfg := rfl
@[simp] theorem State.respond_crc (k : Kind) (n : BitVec 4) (d : List Byte) : (s.respond k n d).crc = s.crc := rfl
@[simp] theorem State.respond_record (k : Kind) (n : BitVec 4) (d : List Byte) : (s.respond k n d).record = s.record := rfl
@[simp] theorem State.respond_img (k : Kind) (n : BitVec 4) (d : List Byte) : (s.respond k n d).img = s.img := rfl
@[simp] theorem State.respond_ptr (k : Kind) (n : BitVec 4) (d : List Byte) : (s.respond k n d).ptr = s.ptr := rfl
@[simp] theorem State.respond_seq (k : Kind) (n : BitVec 4) (d : List Byte) : (s.respond k n d).seq = s.seq := rfl
@[simp] theorem State.respond_fault (k : Kind) (n : BitVec 4) (d : List Byte) : (s.respond k n d).fault = s.fault := rfl
@[simp] theorem State.respond_status (k : Kind) (n : BitVec 4) (d : List Byte) : (s.respond k n d).status = k := rfl
@[simp] theorem State.respond_rlen (k : Kind) (n : BitVec 4) (d : List Byte) : (s.respond k n d).rlen = n := rfl
@[simp] theorem State.respond_rdata (k : Kind) (n : BitVec 4) (d : List Byte) : (s.respond k n d).rdata = d := rfl
@[simp] theorem State.respond_rgn (k : Kind) (n : BitVec 4) (d : List Byte) : (s.respond k n d).rgn = s.rgn := rfl
@[simp] theorem State.respond_inflight (k : Kind) (n : BitVec 4) (d : List Byte) : (s.respond k n d).inflight = s.inflight := rfl
@[simp] theorem State.respond_resp (k : Kind) (n : BitVec 4) (d : List Byte) : (s.respond k n d).resp = some (.store k n d) := rfl
@[simp] theorem State.respond_trace (k : Kind) (n : BitVec 4) (d : List Byte) : (s.respond k n d).trace = s.trace := rfl
@[simp] theorem State.respond_inputs (k : Kind) (n : BitVec 4) (d : List Byte) : (s.respond k n d).inputs = s.inputs := rfl
@[simp] theorem State.respond_answers (k : Kind) (n : BitVec 4) (d : List Byte) : (s.respond k n d).answers = s.answers := rfl
@[simp] theorem State.respond_written (k : Kind) (n : BitVec 4) (d : List Byte) : (s.respond k n d).written = s.written := rfl
@[simp] theorem State.respond_testFault (k : Kind) (n : BitVec 4) (d : List Byte) : (s.respond k n d).testFault = s.testFault := rfl

/-! ### popAnswer -/

@[simp] theorem State.popAnswer_cfg : (s.popAnswer).cfg = s.cfg := rfl
@[simp] theorem State.popAnswer_crc : (s.popAnswer).crc = s.crc := rfl
@[simp] theorem State.popAnswer_record : (s.popAnswer).record = s.record := rfl
@[simp] theorem State.popAnswer_img : (s.popAnswer).img = s.img := rfl
@[simp] theorem State.popAnswer_ptr : (s.popAnswer).ptr = s.ptr := rfl
@[simp] theorem State.popAnswer_seq : (s.popAnswer).seq = s.seq := rfl
@[simp] theorem State.popAnswer_fault : (s.popAnswer).fault = s.fault := rfl
@[simp] theorem State.popAnswer_status : (s.popAnswer).status = s.status := rfl
@[simp] theorem State.popAnswer_rlen : (s.popAnswer).rlen = s.rlen := rfl
@[simp] theorem State.popAnswer_rdata : (s.popAnswer).rdata = s.rdata := rfl
@[simp] theorem State.popAnswer_rgn : (s.popAnswer).rgn = s.rgn := rfl
@[simp] theorem State.popAnswer_inflight : (s.popAnswer).inflight = s.inflight := rfl
@[simp] theorem State.popAnswer_resp : (s.popAnswer).resp = s.resp := rfl
@[simp] theorem State.popAnswer_trace : (s.popAnswer).trace = s.trace := rfl
@[simp] theorem State.popAnswer_inputs : (s.popAnswer).inputs = s.inputs := rfl
@[simp] theorem State.popAnswer_answers : (s.popAnswer).answers = s.answers.tail := rfl
@[simp] theorem State.popAnswer_written : (s.popAnswer).written = s.written := rfl
@[simp] theorem State.popAnswer_testFault : (s.popAnswer).testFault = s.testFault := rfl

/-! ### setRgn -/

@[simp] theorem State.setRgn_cfg (m : Memory) : (s.setRgn m).cfg = s.cfg := rfl
@[simp] theorem State.setRgn_crc (m : Memory) : (s.setRgn m).crc = s.crc := rfl
@[simp] theorem State.setRgn_record (m : Memory) : (s.setRgn m).record = s.record := rfl
@[simp] theorem State.setRgn_img (m : Memory) : (s.setRgn m).img = s.img := rfl
@[simp] theorem State.setRgn_ptr (m : Memory) : (s.setRgn m).ptr = s.ptr := rfl
@[simp] theorem State.setRgn_seq (m : Memory) : (s.setRgn m).seq = s.seq := rfl
@[simp] theorem State.setRgn_fault (m : Memory) : (s.setRgn m).fault = s.fault := rfl
@[simp] theorem State.setRgn_status (m : Memory) : (s.setRgn m).status = s.status := rfl
@[simp] theorem State.setRgn_rlen (m : Memory) : (s.setRgn m).rlen = s.rlen := rfl
@[simp] theorem State.setRgn_rdata (m : Memory) : (s.setRgn m).rdata = s.rdata := rfl
@[simp] theorem State.setRgn_rgn (m : Memory) : (s.setRgn m).rgn = m := rfl
@[simp] theorem State.setRgn_inflight (m : Memory) : (s.setRgn m).inflight = s.inflight := rfl
@[simp] theorem State.setRgn_resp (m : Memory) : (s.setRgn m).resp = s.resp := rfl
@[simp] theorem State.setRgn_trace (m : Memory) : (s.setRgn m).trace = s.trace := rfl
@[simp] theorem State.setRgn_inputs (m : Memory) : (s.setRgn m).inputs = s.inputs := rfl
@[simp] theorem State.setRgn_answers (m : Memory) : (s.setRgn m).answers = s.answers := rfl
@[simp] theorem State.setRgn_written (m : Memory) : (s.setRgn m).written = s.written := rfl
@[simp] theorem State.setRgn_testFault (m : Memory) : (s.setRgn m).testFault = s.testFault := rfl

/-! ### await -/

@[simp] theorem State.await_cfg (q : RgnRequest) : (s.await q).cfg = s.cfg := rfl
@[simp] theorem State.await_crc (q : RgnRequest) : (s.await q).crc = s.crc := rfl
@[simp] theorem State.await_record (q : RgnRequest) : (s.await q).record = s.record := rfl
@[simp] theorem State.await_img (q : RgnRequest) : (s.await q).img = s.img := rfl
@[simp] theorem State.await_ptr (q : RgnRequest) : (s.await q).ptr = s.ptr := rfl
@[simp] theorem State.await_seq (q : RgnRequest) : (s.await q).seq = s.seq := rfl
@[simp] theorem State.await_fault (q : RgnRequest) : (s.await q).fault = s.fault := rfl
@[simp] theorem State.await_status (q : RgnRequest) : (s.await q).status = s.status := rfl
@[simp] theorem State.await_rlen (q : RgnRequest) : (s.await q).rlen = s.rlen := rfl
@[simp] theorem State.await_rdata (q : RgnRequest) : (s.await q).rdata = s.rdata := rfl
@[simp] theorem State.await_rgn (q : RgnRequest) : (s.await q).rgn = s.rgn := rfl
@[simp] theorem State.await_inflight (q : RgnRequest) : (s.await q).inflight = some q := rfl
@[simp] theorem State.await_resp (q : RgnRequest) : (s.await q).resp = none := rfl
@[simp] theorem State.await_trace (q : RgnRequest) : (s.await q).trace = s.trace := rfl
@[simp] theorem State.await_inputs (q : RgnRequest) : (s.await q).inputs = s.inputs := rfl
@[simp] theorem State.await_answers (q : RgnRequest) : (s.await q).answers = s.answers := rfl
@[simp] theorem State.await_written (q : RgnRequest) : (s.await q).written = s.written := rfl
@[simp] theorem State.await_testFault (q : RgnRequest) : (s.await q).testFault = s.testFault := rfl

/-! ### traced -/

@[simp] theorem State.traced_cfg (q : RgnRequest) : (s.traced q).cfg = s.cfg := rfl
@[simp] theorem State.traced_crc (q : RgnRequest) : (s.traced q).crc = s.crc := rfl
@[simp] theorem State.traced_record (q : RgnRequest) : (s.traced q).record = s.record := rfl
@[simp] theorem State.traced_img (q : RgnRequest) : (s.traced q).img = s.img := rfl
@[simp] theorem State.traced_ptr (q : RgnRequest) : (s.traced q).ptr = s.ptr := rfl
@[simp] theorem State.traced_seq (q : RgnRequest) : (s.traced q).seq = s.seq := rfl
@[simp] theorem State.traced_fault (q : RgnRequest) : (s.traced q).fault = s.fault := rfl
@[simp] theorem State.traced_status (q : RgnRequest) : (s.traced q).status = s.status := rfl
@[simp] theorem State.traced_rlen (q : RgnRequest) : (s.traced q).rlen = s.rlen := rfl
@[simp] theorem State.traced_rdata (q : RgnRequest) : (s.traced q).rdata = s.rdata := rfl
@[simp] theorem State.traced_rgn (q : RgnRequest) : (s.traced q).rgn = s.rgn := rfl
@[simp] theorem State.traced_inflight (q : RgnRequest) : (s.traced q).inflight = s.inflight := rfl
@[simp] theorem State.traced_resp (q : RgnRequest) : (s.traced q).resp = s.resp := rfl
@[simp] theorem State.traced_trace (q : RgnRequest) : (s.traced q).trace = s.trace ++ [q] := rfl
@[simp] theorem State.traced_inputs (q : RgnRequest) : (s.traced q).inputs = s.inputs := rfl
@[simp] theorem State.traced_answers (q : RgnRequest) : (s.traced q).answers = s.answers := rfl
@[simp] theorem State.traced_written (q : RgnRequest) : (s.traced q).written = s.written := rfl
@[simp] theorem State.traced_testFault (q : RgnRequest) : (s.traced q).testFault = s.testFault := rfl

/-! ### withInputs -/

@[simp] theorem State.withInputs_cfg (l : List Input) : (s.withInputs l).cfg = s.cfg := rfl
@[simp] theorem State.withInputs_crc (l : List Input) : (s.withInputs l).crc = s.crc := rfl
@[simp] theorem State.withInputs_record (l : List Input) : (s.withInputs l).record = s.record := rfl
@[simp] theorem State.withInputs_img (l : List Input) : (s.withInputs l).img = s.img := rfl
@[simp] theorem State.withInputs_ptr (l : List Input) : (s.withInputs l).ptr = s.ptr := rfl
@[simp] theorem State.withInputs_seq (l : List Input) : (s.withInputs l).seq = s.seq := rfl
@[simp] theorem State.withInputs_fault (l : List Input) : (s.withInputs l).fault = s.fault := rfl
@[simp] theorem State.withInputs_status (l : List Input) : (s.withInputs l).status = s.status := rfl
@[simp] theorem State.withInputs_rlen (l : List Input) : (s.withInputs l).rlen = s.rlen := rfl
@[simp] theorem State.withInputs_rdata (l : List Input) : (s.withInputs l).rdata = s.rdata := rfl
@[simp] theorem State.withInputs_rgn (l : List Input) : (s.withInputs l).rgn = s.rgn := rfl
@[simp] theorem State.withInputs_inflight (l : List Input) : (s.withInputs l).inflight = s.inflight := rfl
@[simp] theorem State.withInputs_resp (l : List Input) : (s.withInputs l).resp = s.resp := rfl
@[simp] theorem State.withInputs_trace (l : List Input) : (s.withInputs l).trace = s.trace := rfl
@[simp] theorem State.withInputs_inputs (l : List Input) : (s.withInputs l).inputs = l := rfl
@[simp] theorem State.withInputs_answers (l : List Input) : (s.withInputs l).answers = s.answers := rfl
@[simp] theorem State.withInputs_written (l : List Input) : (s.withInputs l).written = s.written := rfl
@[simp] theorem State.withInputs_testFault (l : List Input) : (s.withInputs l).testFault = s.testFault := rfl

/-! ### setChecksum -/

@[simp] theorem State.setChecksum_cfg (v : Word) : (s.setChecksum v).cfg = s.cfg := rfl
@[simp] theorem State.setChecksum_crc (v : Word) : (s.setChecksum v).crc = s.crc := rfl
@[simp] theorem State.setChecksum_record (v : Word) : (s.setChecksum v).record = { s.record with checksum := v } := rfl
@[simp] theorem State.setChecksum_img (v : Word) : (s.setChecksum v).img = s.img := rfl
@[simp] theorem State.setChecksum_ptr (v : Word) : (s.setChecksum v).ptr = s.ptr := rfl
@[simp] theorem State.setChecksum_seq (v : Word) : (s.setChecksum v).seq = s.seq := rfl
@[simp] theorem State.setChecksum_fault (v : Word) : (s.setChecksum v).fault = s.fault := rfl
@[simp] theorem State.setChecksum_status (v : Word) : (s.setChecksum v).status = s.status := rfl
@[simp] theorem State.setChecksum_rlen (v : Word) : (s.setChecksum v).rlen = s.rlen := rfl
@[simp] theorem State.setChecksum_rdata (v : Word) : (s.setChecksum v).rdata = s.rdata := rfl
@[simp] theorem State.setChecksum_rgn (v : Word) : (s.setChecksum v).rgn = s.rgn := rfl
@[simp] theorem State.setChecksum_inflight (v : Word) : (s.setChecksum v).inflight = s.inflight := rfl
@[simp] theorem State.setChecksum_resp (v : Word) : (s.setChecksum v).resp = s.resp := rfl
@[simp] theorem State.setChecksum_trace (v : Word) : (s.setChecksum v).trace = s.trace := rfl
@[simp] theorem State.setChecksum_inputs (v : Word) : (s.setChecksum v).inputs = s.inputs := rfl
@[simp] theorem State.setChecksum_answers (v : Word) : (s.setChecksum v).answers = s.answers := rfl
@[simp] theorem State.setChecksum_written (v : Word) : (s.setChecksum v).written = { s.written with record := true } := rfl
@[simp] theorem State.setChecksum_testFault (v : Word) : (s.setChecksum v).testFault = s.testFault := rfl

/-! ### recEnc -/

@[simp] theorem State.recEnc_cfg : (s.recEnc).cfg = s.cfg := rfl
@[simp] theorem State.recEnc_crc : (s.recEnc).crc = s.crc := rfl
@[simp] theorem State.recEnc_record : (s.recEnc).record = s.record := rfl
@[simp] theorem State.recEnc_img : (s.recEnc).img = encodeRecord s.cfg s.record := rfl
@[simp] theorem State.recEnc_ptr : (s.recEnc).ptr = s.ptr := rfl
@[simp] theorem State.recEnc_seq : (s.recEnc).seq = s.seq := rfl
@[simp] theorem State.recEnc_fault : (s.recEnc).fault = s.fault := rfl
@[simp] theorem State.recEnc_status : (s.recEnc).status = s.status := rfl
@[simp] theorem State.recEnc_rlen : (s.recEnc).rlen = s.rlen := rfl
@[simp] theorem State.recEnc_rdata : (s.recEnc).rdata = s.rdata := rfl
@[simp] theorem State.recEnc_rgn : (s.recEnc).rgn = s.rgn := rfl
@[simp] theorem State.recEnc_inflight : (s.recEnc).inflight = s.inflight := rfl
@[simp] theorem State.recEnc_resp : (s.recEnc).resp = s.resp := rfl
@[simp] theorem State.recEnc_trace : (s.recEnc).trace = s.trace := rfl
@[simp] theorem State.recEnc_inputs : (s.recEnc).inputs = s.inputs := rfl
@[simp] theorem State.recEnc_answers : (s.recEnc).answers = s.answers := rfl
@[simp] theorem State.recEnc_written : (s.recEnc).written = { s.written with img := true } := rfl
@[simp] theorem State.recEnc_testFault : (s.recEnc).testFault = (s.testFault || !s.written.record) := rfl

/-! ### recDec -/

@[simp] theorem State.recDec_cfg : (s.recDec).cfg = s.cfg := rfl
@[simp] theorem State.recDec_crc : (s.recDec).crc = s.crc := rfl
@[simp] theorem State.recDec_record : (s.recDec).record = decodeRecord s.cfg s.img := rfl
@[simp] theorem State.recDec_img : (s.recDec).img = s.img := rfl
@[simp] theorem State.recDec_ptr : (s.recDec).ptr = s.ptr := rfl
@[simp] theorem State.recDec_seq : (s.recDec).seq = s.seq := rfl
@[simp] theorem State.recDec_fault : (s.recDec).fault = s.fault := rfl
@[simp] theorem State.recDec_status : (s.recDec).status = s.status := rfl
@[simp] theorem State.recDec_rlen : (s.recDec).rlen = s.rlen := rfl
@[simp] theorem State.recDec_rdata : (s.recDec).rdata = s.rdata := rfl
@[simp] theorem State.recDec_rgn : (s.recDec).rgn = s.rgn := rfl
@[simp] theorem State.recDec_inflight : (s.recDec).inflight = s.inflight := rfl
@[simp] theorem State.recDec_resp : (s.recDec).resp = s.resp := rfl
@[simp] theorem State.recDec_trace : (s.recDec).trace = s.trace := rfl
@[simp] theorem State.recDec_inputs : (s.recDec).inputs = s.inputs := rfl
@[simp] theorem State.recDec_answers : (s.recDec).answers = s.answers := rfl
@[simp] theorem State.recDec_written : (s.recDec).written = { s.written with record := true } := rfl
@[simp] theorem State.recDec_testFault : (s.recDec).testFault = (s.testFault || !s.written.img) := rfl

/-! ### recCsum -/

@[simp] theorem State.recCsum_cfg : (s.recCsum).cfg = s.cfg := rfl
@[simp] theorem State.recCsum_crc : (s.recCsum).crc = crcRun (covered s.cfg s.img) := rfl
@[simp] theorem State.recCsum_record : (s.recCsum).record = s.record := rfl
@[simp] theorem State.recCsum_img : (s.recCsum).img = s.img := rfl
@[simp] theorem State.recCsum_ptr : (s.recCsum).ptr = s.ptr := rfl
@[simp] theorem State.recCsum_seq : (s.recCsum).seq = s.seq := rfl
@[simp] theorem State.recCsum_fault : (s.recCsum).fault = s.fault := rfl
@[simp] theorem State.recCsum_status : (s.recCsum).status = s.status := rfl
@[simp] theorem State.recCsum_rlen : (s.recCsum).rlen = s.rlen := rfl
@[simp] theorem State.recCsum_rdata : (s.recCsum).rdata = s.rdata := rfl
@[simp] theorem State.recCsum_rgn : (s.recCsum).rgn = s.rgn := rfl
@[simp] theorem State.recCsum_inflight : (s.recCsum).inflight = s.inflight := rfl
@[simp] theorem State.recCsum_resp : (s.recCsum).resp = s.resp := rfl
@[simp] theorem State.recCsum_trace : (s.recCsum).trace = s.trace := rfl
@[simp] theorem State.recCsum_inputs : (s.recCsum).inputs = s.inputs := rfl
@[simp] theorem State.recCsum_answers : (s.recCsum).answers = s.answers := rfl
@[simp] theorem State.recCsum_written : (s.recCsum).written = { s.written with crc := true } := rfl
@[simp] theorem State.recCsum_testFault : (s.recCsum).testFault = (s.testFault || !s.written.img) := rfl

/-! ### recValid -/

@[simp] theorem State.recValid_cfg : (s.recValid).cfg = s.cfg := rfl
@[simp] theorem State.recValid_crc : (s.recValid).crc = crcRun (covered s.cfg (encodeRecord s.cfg s.record)) := rfl
@[simp] theorem State.recValid_record : (s.recValid).record = s.record := rfl
@[simp] theorem State.recValid_img : (s.recValid).img = s.img := rfl
@[simp] theorem State.recValid_ptr : (s.recValid).ptr = s.ptr := rfl
@[simp] theorem State.recValid_seq : (s.recValid).seq = s.seq := rfl
@[simp] theorem State.recValid_fault : (s.recValid).fault = s.fault := rfl
@[simp] theorem State.recValid_status : (s.recValid).status = s.status := rfl
@[simp] theorem State.recValid_rlen : (s.recValid).rlen = s.rlen := rfl
@[simp] theorem State.recValid_rdata : (s.recValid).rdata = s.rdata := rfl
@[simp] theorem State.recValid_rgn : (s.recValid).rgn = s.rgn := rfl
@[simp] theorem State.recValid_inflight : (s.recValid).inflight = s.inflight := rfl
@[simp] theorem State.recValid_resp : (s.recValid).resp = s.resp := rfl
@[simp] theorem State.recValid_trace : (s.recValid).trace = s.trace := rfl
@[simp] theorem State.recValid_inputs : (s.recValid).inputs = s.inputs := rfl
@[simp] theorem State.recValid_answers : (s.recValid).answers = s.answers := rfl
@[simp] theorem State.recValid_written : (s.recValid).written = { s.written with crc := true } := rfl
@[simp] theorem State.recValid_testFault : (s.recValid).testFault = (s.testFault || !s.written.record) := rfl

/-! ### updated -/

@[simp] theorem State.updated_cfg (n : Nat) (w : List Byte) : (s.updated n w).cfg = s.cfg := rfl
@[simp] theorem State.updated_crc (n : Nat) (w : List Byte) : (s.updated n w).crc = s.crc := rfl
@[simp] theorem State.updated_record (n : Nat) (w : List Byte) : (s.updated n w).record = { s.record with blockId := writtenId, payloadA := overlay n w s.record.payloadA } := rfl
@[simp] theorem State.updated_img (n : Nat) (w : List Byte) : (s.updated n w).img = s.img := rfl
@[simp] theorem State.updated_ptr (n : Nat) (w : List Byte) : (s.updated n w).ptr = s.ptr := rfl
@[simp] theorem State.updated_seq (n : Nat) (w : List Byte) : (s.updated n w).seq = s.seq := rfl
@[simp] theorem State.updated_fault (n : Nat) (w : List Byte) : (s.updated n w).fault = s.fault := rfl
@[simp] theorem State.updated_status (n : Nat) (w : List Byte) : (s.updated n w).status = s.status := rfl
@[simp] theorem State.updated_rlen (n : Nat) (w : List Byte) : (s.updated n w).rlen = s.rlen := rfl
@[simp] theorem State.updated_rdata (n : Nat) (w : List Byte) : (s.updated n w).rdata = s.rdata := rfl
@[simp] theorem State.updated_rgn (n : Nat) (w : List Byte) : (s.updated n w).rgn = s.rgn := rfl
@[simp] theorem State.updated_inflight (n : Nat) (w : List Byte) : (s.updated n w).inflight = s.inflight := rfl
@[simp] theorem State.updated_resp (n : Nat) (w : List Byte) : (s.updated n w).resp = s.resp := rfl
@[simp] theorem State.updated_trace (n : Nat) (w : List Byte) : (s.updated n w).trace = s.trace := rfl
@[simp] theorem State.updated_inputs (n : Nat) (w : List Byte) : (s.updated n w).inputs = s.inputs := rfl
@[simp] theorem State.updated_answers (n : Nat) (w : List Byte) : (s.updated n w).answers = s.answers := rfl
@[simp] theorem State.updated_written (n : Nat) (w : List Byte) : (s.updated n w).written = { s.written with record := true } := rfl
@[simp] theorem State.updated_testFault (n : Nat) (w : List Byte) : (s.updated n w).testFault = s.testFault := rfl

/-! ### loadErased -/

@[simp] theorem State.loadErased_cfg : (s.loadErased).cfg = s.cfg := rfl
@[simp] theorem State.loadErased_crc : (s.loadErased).crc = s.crc := rfl
@[simp] theorem State.loadErased_record : (s.loadErased).record = s.cfg.erasedRecord := rfl
@[simp] theorem State.loadErased_img : (s.loadErased).img = s.cfg.erasedImg := rfl
@[simp] theorem State.loadErased_ptr : (s.loadErased).ptr = s.ptr := rfl
@[simp] theorem State.loadErased_seq : (s.loadErased).seq = s.seq := rfl
@[simp] theorem State.loadErased_fault : (s.loadErased).fault = s.fault := rfl
@[simp] theorem State.loadErased_status : (s.loadErased).status = s.status := rfl
@[simp] theorem State.loadErased_rlen : (s.loadErased).rlen = s.rlen := rfl
@[simp] theorem State.loadErased_rdata : (s.loadErased).rdata = s.rdata := rfl
@[simp] theorem State.loadErased_rgn : (s.loadErased).rgn = s.rgn := rfl
@[simp] theorem State.loadErased_inflight : (s.loadErased).inflight = s.inflight := rfl
@[simp] theorem State.loadErased_resp : (s.loadErased).resp = s.resp := rfl
@[simp] theorem State.loadErased_trace : (s.loadErased).trace = s.trace := rfl
@[simp] theorem State.loadErased_inputs : (s.loadErased).inputs = s.inputs := rfl
@[simp] theorem State.loadErased_answers : (s.loadErased).answers = s.answers := rfl
@[simp] theorem State.loadErased_written : (s.loadErased).written = { s.written with img := true, record := true } := rfl

/-! ### finish -/

@[simp] theorem State.finish_cfg (n : BitVec 4) (d : List Byte) : (s.finish n d).cfg = s.cfg := rfl
@[simp] theorem State.finish_crc (n : BitVec 4) (d : List Byte) : (s.finish n d).crc = s.crc := rfl
@[simp] theorem State.finish_record (n : BitVec 4) (d : List Byte) : (s.finish n d).record = s.record := rfl
@[simp] theorem State.finish_img (n : BitVec 4) (d : List Byte) : (s.finish n d).img = s.img := rfl
@[simp] theorem State.finish_ptr (n : BitVec 4) (d : List Byte) : (s.finish n d).ptr = s.ptr := rfl
@[simp] theorem State.finish_seq (n : BitVec 4) (d : List Byte) : (s.finish n d).seq = (.idle : Seq) := rfl
@[simp] theorem State.finish_fault (n : BitVec 4) (d : List Byte) : (s.finish n d).fault = s.fault := rfl
@[simp] theorem State.finish_status (n : BitVec 4) (d : List Byte) : (s.finish n d).status = (.ok : Kind) := rfl
@[simp] theorem State.finish_rlen (n : BitVec 4) (d : List Byte) : (s.finish n d).rlen = n := rfl
@[simp] theorem State.finish_rdata (n : BitVec 4) (d : List Byte) : (s.finish n d).rdata = d := rfl
@[simp] theorem State.finish_rgn (n : BitVec 4) (d : List Byte) : (s.finish n d).rgn = s.rgn := rfl
@[simp] theorem State.finish_inflight (n : BitVec 4) (d : List Byte) : (s.finish n d).inflight = s.inflight := rfl
@[simp] theorem State.finish_resp (n : BitVec 4) (d : List Byte) : (s.finish n d).resp = some (.store .ok n d) := rfl
@[simp] theorem State.finish_trace (n : BitVec 4) (d : List Byte) : (s.finish n d).trace = s.trace := rfl
@[simp] theorem State.finish_inputs (n : BitVec 4) (d : List Byte) : (s.finish n d).inputs = s.inputs := rfl
@[simp] theorem State.finish_answers (n : BitVec 4) (d : List Byte) : (s.finish n d).answers = s.answers := rfl
@[simp] theorem State.finish_written (n : BitVec 4) (d : List Byte) : (s.finish n d).written = s.written := rfl
@[simp] theorem State.finish_testFault (n : BitVec 4) (d : List Byte) : (s.finish n d).testFault = s.testFault := rfl

@[simp] theorem State.loadErased_testFault : s.loadErased.testFault = s.testFault := by
  simp [State.loadErased]

/-! ### raise -/

@[simp] theorem State.raise_status (k : Kind) : (s.raise k).status = k := by cases k <;> rfl
@[simp] theorem State.raise_rlen (k : Kind) : (s.raise k).rlen = 0 := by cases k <;> rfl
@[simp] theorem State.raise_rdata (k : Kind) : (s.raise k).rdata = rep 0x00 8 := by cases k <;> rfl
@[simp] theorem State.raise_resp (k : Kind) : (s.raise k).resp = some (.store k 0 (rep 0x00 8)) := by cases k <;> rfl
@[simp] theorem State.raise_seq (k : Kind) :
    (s.raise k).seq = if k = .hardwareFault then .fault else .idle := by cases k <;> rfl
@[simp] theorem State.raise_fault (k : Kind) :
    (s.raise k).fault = if k = .hardwareFault then true else s.fault := by cases k <;> rfl
@[simp] theorem State.raise_cfg (k : Kind) : (s.raise k).cfg = s.cfg := by cases k <;> rfl
@[simp] theorem State.raise_crc (k : Kind) : (s.raise k).crc = s.crc := by cases k <;> rfl
@[simp] theorem State.raise_record (k : Kind) : (s.raise k).record = s.record := by cases k <;> rfl
@[simp] theorem State.raise_img (k : Kind) : (s.raise k).img = s.img := by cases k <;> rfl
@[simp] theorem State.raise_ptr (k : Kind) : (s.raise k).ptr = s.ptr := by cases k <;> rfl
@[simp] theorem State.raise_rgn (k : Kind) : (s.raise k).rgn = s.rgn := by cases k <;> rfl
@[simp] theorem State.raise_inflight (k : Kind) : (s.raise k).inflight = s.inflight := by cases k <;> rfl
@[simp] theorem State.raise_trace (k : Kind) : (s.raise k).trace = s.trace := by cases k <;> rfl
@[simp] theorem State.raise_inputs (k : Kind) : (s.raise k).inputs = s.inputs := by cases k <;> rfl
@[simp] theorem State.raise_answers (k : Kind) : (s.raise k).answers = s.answers := by cases k <;> rfl
@[simp] theorem State.raise_written (k : Kind) : (s.raise k).written = s.written := by cases k <;> rfl
@[simp] theorem State.raise_testFault (k : Kind) : (s.raise k).testFault = s.testFault := by cases k <;> rfl

/-! ### sealed -/

/-- The record after `Seal` (R163). -/
def sealedRecord (c : Config) (r : Record) : Record :=
  { r with checksum := recordCsum c r }

@[simp] theorem State.sealed_record : s.sealed.record = sealedRecord s.cfg s.record := rfl
@[simp] theorem State.sealed_img :
    s.sealed.img = encodeRecord s.cfg (sealedRecord s.cfg s.record) := rfl
@[simp] theorem State.sealed_crc :
    s.sealed.crc = crcRun (covered s.cfg (encodeRecord s.cfg s.record)) := rfl
@[simp] theorem State.sealed_written :
    s.sealed.written = { s.written with crc := true, record := true, img := true } := rfl
@[simp] theorem State.sealed_testFault :
    s.sealed.testFault = (s.testFault || !s.written.record) := by
  simp [State.sealed]
@[simp] theorem State.sealed_cfg : s.sealed.cfg = s.cfg := rfl
@[simp] theorem State.sealed_ptr : s.sealed.ptr = s.ptr := rfl
@[simp] theorem State.sealed_seq : s.sealed.seq = s.seq := rfl
@[simp] theorem State.sealed_fault : s.sealed.fault = s.fault := rfl
@[simp] theorem State.sealed_status : s.sealed.status = s.status := rfl
@[simp] theorem State.sealed_rlen : s.sealed.rlen = s.rlen := rfl
@[simp] theorem State.sealed_rdata : s.sealed.rdata = s.rdata := rfl
@[simp] theorem State.sealed_rgn : s.sealed.rgn = s.rgn := rfl
@[simp] theorem State.sealed_inflight : s.sealed.inflight = s.inflight := rfl
@[simp] theorem State.sealed_resp : s.sealed.resp = s.resp := rfl
@[simp] theorem State.sealed_trace : s.sealed.trace = s.trace := rfl
@[simp] theorem State.sealed_inputs : s.sealed.inputs = s.inputs := rfl
@[simp] theorem State.sealed_answers : s.sealed.answers = s.answers := rfl

end Sys2Proof.Machine
end

