-- ==== Sys2Proof/Laws/Codec.lean ====
section
/-! SUPPORT. Sizes and byte order of the record image (spec 42_codec.md R140, 00_scope.md R14). -/

namespace Sys2Proof

theorem Config.csOff_add (c : Config) : c.recordSize = c.csOff + 4 := rfl

theorem Config.csOff_eq (c : Config) : c.csOff = 20 + c.reservedLen := by
  simp [Config.csOff, idLen, payloadLen]

theorem Config.recordSize_eq (c : Config) : c.recordSize = 24 + c.reservedLen := by
  simp [Config.recordSize, idLen, payloadLen, csumLen]; omega

theorem Config.recordSize_pos (c : Config) : 0 < c.recordSize := by
  rw [Config.recordSize_eq]; omega

/-- The bounds a legal configuration gives (R10, R12). -/
theorem Config.legal_bounds {c : Config} (h : c.legal = true) :
    c.baseOffset < 2 ^ 32 ∧ c.regionSize < 2 ^ 32 ∧ c.reservedLen ≤ 65511 ∧ 1 ≤ c.recordCount ∧
      c.recordCount ≤ 65535 := by
  simpa [Config.legal, and_assoc] using h

/-- A slot lies inside the region (R54). -/
theorem Config.slot_inside {c : Config} {i : Nat} (h : i < c.recordCount) :
    c.slotOff i + c.recordSize ≤ c.recordCount * c.recordSize ∧
      c.recordCount * c.recordSize ≤ c.regionSize := by
  refine ⟨?_, Nat.div_mul_le_self _ _⟩
  have := Nat.mul_le_mul_right c.recordSize (Nat.succ_le_of_lt h)
  simpa [Config.slotOff, Nat.succ_mul] using this

/-- Two slots do not overlap (R53). -/
theorem Config.slot_disjoint {c : Config} {i j : Nat} (h : i < j) :
    c.slotOff i + c.recordSize ≤ c.slotOff j := by
  have := Nat.mul_le_mul_right c.recordSize (Nat.succ_le_of_lt h)
  simpa [Config.slotOff, Nat.succ_mul] using this

@[simp] theorem length_rep (v : Byte) (n : Nat) : (rep v n).length = n := by simp [rep]

@[simp] theorem length_int32 (e : Endian) (v : Word) : (int32 e v).length = 4 := by cases e <;> rfl

@[simp] theorem length_slice (bs : List Byte) (a b : Nat) :
    (slice bs a b).length = min (b - a) (bs.length - a) := by
  simp [slice]

/-- Bit `i` of four joined bytes. -/
theorem getLsbD_word4 (b3 b2 b1 b0 : Byte) (i : Nat) :
    (word4 b3 b2 b1 b0).getLsbD i =
      if i < 8 then b0.getLsbD i else if i < 16 then b1.getLsbD (i - 8)
      else if i < 24 then b2.getLsbD (i - 16) else b3.getLsbD (i - 24) := by
  show (b3 ++ b2 ++ b1 ++ b0 : BitVec (8 + 8 + 8 + 8)).getLsbD i = _
  simp only [BitVec.getLsbD_append]
  split_ifs <;> first | rfl | omega

/-- The bytes of four joined bytes are the four bytes. -/
theorem extract_word4 (b3 b2 b1 b0 : Byte) :
    (word4 b3 b2 b1 b0).extractLsb' 0 8 = b0 ∧ (word4 b3 b2 b1 b0).extractLsb' 8 8 = b1 ∧
      (word4 b3 b2 b1 b0).extractLsb' 16 8 = b2 ∧ (word4 b3 b2 b1 b0).extractLsb' 24 8 = b3 := by
  refine ⟨?_, ?_, ?_, ?_⟩ <;> refine BitVec.eq_of_getLsbD_eq fun i hi => ?_ <;>
    simp only [BitVec.getLsbD_extractLsb', getLsbD_word4, hi, decide_true, Bool.true_and] <;>
    split_ifs <;> first | omega | (congr 1; omega)

/-- A word is its four bytes joined. -/
theorem word4_extract (v : Word) :
    word4 (v.extractLsb' 24 8) (v.extractLsb' 16 8) (v.extractLsb' 8 8) (v.extractLsb' 0 8) = v := by
  refine BitVec.eq_of_getLsbD_eq fun i hi => ?_
  simp only [getLsbD_word4, BitVec.getLsbD_extractLsb']
  split_ifs with h1 h2 h3
  · simp [h1]
  · rw [show 8 + (i - 8) = i by omega]; simp; omega
  · rw [show 16 + (i - 16) = i by omega]; simp; omega
  · rw [show 24 + (i - 24) = i by omega]; simp; omega

/-- `unint32` inverts `int32` (R14). -/
@[simp] theorem unint32_int32 (e : Endian) (v : Word) : unint32 e (int32 e v) = v := by
  cases e <;> exact word4_extract v

/-- `int32` inverts `unint32` on four bytes (R14). -/
theorem int32_unint32 (e : Endian) (a b c d : Byte) : int32 e (unint32 e [a, b, c, d]) = [a, b, c, d] := by
  cases e
  · obtain ⟨h0, h1, h2, h3⟩ := extract_word4 d c b a
    simp [int32, le32, unint32, h0, h1, h2, h3]
  · obtain ⟨h0, h1, h2, h3⟩ := extract_word4 a b c d
    simp [int32, be32, unint32, h0, h1, h2, h3]

/-- The sizes of a record's fields (R140). -/
theorem Record.sized_iff {c : Config} {r : Record} :
    r.sized c = true ↔
      r.payloadA.length = 8 ∧ r.payloadB.length = 8 ∧ r.reserved.length = c.reservedLen := by
  simp [Record.sized, payloadLen, and_assoc]

/-- An image has `RECORD_SIZE` bytes (R140). -/
theorem length_encodeRecord {c : Config} {r : Record} (h : r.sized c = true) :
    (encodeRecord c r).length = c.recordSize := by
  obtain ⟨ha, hb, hr⟩ := Record.sized_iff.1 h
  simp [encodeRecord, ha, hb, hr, Config.recordSize_eq]; omega

/-- A decoded image has fields of the right sizes (R143). -/
theorem sized_decodeRecord {c : Config} {bs : List Byte} (h : bs.length = c.recordSize) :
    (decodeRecord c bs).sized c = true := by
  rw [Config.recordSize_eq] at h
  refine Record.sized_iff.2 ⟨?_, ?_, ?_⟩ <;> simp [decodeRecord, h, Config.csOff_eq] <;> omega

theorem length_erasedImg (c : Config) : c.erasedImg.length = c.recordSize := by
  simp [Config.erasedImg]

theorem sized_erasedRecord (c : Config) : c.erasedRecord.sized c = true :=
  sized_decodeRecord (length_erasedImg c)

theorem Record.sized_checksum {c : Config} {r : Record} (h : r.sized c = true) (v : Word) :
    ({ r with checksum := v } : Record).sized c = true := h

@[simp] theorem length_overlay (n : Nat) (ws olds : List Byte) :
    (Machine.overlay n ws olds).length = olds.length := by
  induction n generalizing ws olds with
  | zero => cases ws <;> rfl
  | succ n ih =>
    cases ws with
    | nil => rfl
    | cons w ws => cases olds <;> simp [Machine.overlay, ih]

/-- `Update` replaces the first `len` bytes and keeps the others (R166). -/
theorem overlay_eq {n : Nat} {ws olds : List Byte} (hw : n ≤ ws.length) (ho : n ≤ olds.length) :
    Machine.overlay n ws olds = ws.take n ++ olds.drop n := by
  induction n generalizing ws olds with
  | zero => cases ws <;> simp [Machine.overlay]
  | succ n ih =>
    cases ws with
    | nil => simp at hw
    | cons w ws =>
      cases olds with
      | nil => simp at ho
      | cons o olds =>
        simp only [List.length_cons, Nat.add_le_add_iff_right] at hw ho
        simp [Machine.overlay, ih hw ho]

theorem length_readBack {p : List Byte} {n : Nat} (hp : p.length = 8) (hn : n ≤ 8) :
    (Machine.readBack p n).length = 8 := by
  simp [Machine.readBack, hp]; omega

/-- The covered bytes of an image do not include its checksum (R148). -/
theorem covered_encodeRecord {c : Config} {r : Record} (h : r.sized c = true) :
    Machine.covered c (encodeRecord c r) =
      int32 c.endian r.blockId ++ r.payloadA ++ r.payloadB ++ r.reserved := by
  obtain ⟨ha, hb, hr⟩ := Record.sized_iff.1 h
  unfold Machine.covered encodeRecord
  rw [List.take_left']
  simp [ha, hb, hr, Config.csOff_eq]; omega

end Sys2Proof
end

