-- ==== Sys2Proof/Laws/Memory.lean ====
section
/-! SUPPORT. The region memory: reads after writes, programs, mixes, and the canonical form, which every
operation keeps. -/

namespace Sys2Proof.Machine

/-! ### One byte -/

@[simp] theorem Memory.read_nil (a : Nat) : Memory.read [] a = erasedByte := rfl

theorem Memory.read_cons (c : Host.Cell) (m : Memory) (a : Nat) :
    Memory.read (c :: m) a = if c.1 = a then c.2 else m.read a := rfl

/-- Below the first entry every byte is erased. -/
theorem Memory.read_below {m : Memory} {a : Nat} (h : ∀ c ∈ m, a < c.1) : m.read a = erasedByte := by
  induction m with
  | nil => rfl
  | cons c m ih =>
    have hc := h c (by simp)
    rw [Memory.read_cons, if_neg (by omega), ih fun d hd => h d (by simp [hd])]

theorem Memory.wf_cons {c : Host.Cell} {m : Memory} :
    Memory.wf (c :: m) ↔ (∀ d ∈ m, c.1 < d.1) ∧ c.2 ≠ erasedByte ∧ m.wf := by
  simp only [Memory.wf, List.pairwise_cons, List.mem_cons, forall_eq_or_imp]
  tauto

theorem Memory.wf_nil : Memory.wf [] := by simp [Memory.wf]

theorem Memory.read_consByte {m : Memory} {a : Nat} {b : Byte} (h : ∀ c ∈ m, a < c.1) (x : Nat) :
    (Memory.cons a b m).read x = if x = a then b else m.read x := by
  unfold Memory.cons
  split
  · next hb =>
    split
    · next hx => rw [hx, Memory.read_below h, hb]
    · rfl
  · simp only [Memory.read_cons, eq_comm]

theorem Memory.wf_consByte {m : Memory} {a : Nat} {b : Byte} (h : ∀ c ∈ m, a < c.1) (hm : m.wf) :
    (Memory.cons a b m).wf := by
  unfold Memory.cons
  split
  · exact hm
  · next hb => exact Memory.wf_cons.2 ⟨h, hb, hm⟩

theorem Memory.mem_consByte {m : Memory} {a : Nat} {b : Byte} {c : Host.Cell}
    (h : c ∈ Memory.cons a b m) : c.1 = a ∨ c ∈ m := by
  unfold Memory.cons at h
  split at h
  · exact .inr h
  · rcases List.mem_cons.1 h with rfl | h
    · exact .inl rfl
    · exact .inr h

/-- An entry after a write is at the written offset or was there before. -/
theorem Memory.mem_write {m : Memory} {a : Nat} {b : Byte} {c : Host.Cell}
    (h : c ∈ m.write a b) : c.1 = a ∨ c ∈ m := by
  induction m with
  | nil => exact Memory.mem_consByte h
  | cons d m ih =>
    simp only [Memory.write] at h
    split at h
    · exact Memory.mem_consByte h
    · split at h
      · rcases Memory.mem_consByte h with h | h
        · exact .inl h
        · exact .inr (List.mem_cons_of_mem _ h)
      · rcases List.mem_cons.1 h with rfl | h
        · exact .inr (by simp)
        · rcases ih h with h | h
          · exact .inl h
          · exact .inr (List.mem_cons_of_mem _ h)

/-- A write keeps the canonical form. -/
theorem Memory.write_wf {m : Memory} (hm : m.wf) (a : Nat) (b : Byte) : (m.write a b).wf := by
  induction m with
  | nil => exact Memory.wf_consByte (by simp) Memory.wf_nil
  | cons c m ih =>
    obtain ⟨hlt, hne, hm'⟩ := Memory.wf_cons.1 hm
    simp only [Memory.write]
    split
    · next hac =>
      refine Memory.wf_consByte (fun d hd => ?_) hm
      rcases List.mem_cons.1 hd with rfl | hd
      · exact hac
      · exact Nat.lt_trans hac (hlt d hd)
    · next hac =>
      split
      · next he => exact Memory.wf_consByte (fun d hd => by rw [he]; exact hlt d hd) hm'
      · refine Memory.wf_cons.2 ⟨fun d hd => ?_, hne, ih hm'⟩
        rcases Memory.mem_write hd with h | h
        · omega
        · exact hlt d h

/-- Reading after a write: the byte written at its offset, the old byte everywhere else. -/
theorem Memory.read_write {m : Memory} (hm : m.wf) (a : Nat) (b : Byte) (x : Nat) :
    (m.write a b).read x = if x = a then b else m.read x := by
  induction m with
  | nil => exact Memory.read_consByte (by simp) x
  | cons c m ih =>
    obtain ⟨hlt, hne, hm'⟩ := Memory.wf_cons.1 hm
    simp only [Memory.write]
    split
    · next hac =>
      refine Memory.read_consByte (fun d hd => ?_) x
      rcases List.mem_cons.1 hd with rfl | hd
      · exact hac
      · exact Nat.lt_trans hac (hlt d hd)
    · next hac =>
      split
      · next he =>
        rw [Memory.read_consByte fun d hd => by rw [he]; exact hlt d hd, Memory.read_cons]
        by_cases hx : x = a
        · rw [if_pos hx, if_pos hx]
        · rw [if_neg hx, if_neg hx, if_neg (by omega)]
      · next hne' =>
        rw [Memory.read_cons, ih hm', Memory.read_cons]
        by_cases hx : x = a
        · rw [if_pos hx, if_neg (by omega), if_pos hx]
        · rw [if_neg hx, if_neg hx]

/-- Two canonical memories that read alike are equal. -/
theorem Memory.ext_read {m n : Memory} (hm : m.wf) (hn : n.wf) (h : ∀ a, m.read a = n.read a) :
    m = n := by
  induction m generalizing n with
  | nil =>
    cases n with
    | nil => rfl
    | cons d n =>
      have := h d.1
      rw [Memory.read_cons, if_pos rfl, Memory.read_nil] at this
      exact absurd this.symm (Memory.wf_cons.1 hn).2.1
  | cons c m ih =>
    obtain ⟨hc, hcb, hm'⟩ := Memory.wf_cons.1 hm
    cases n with
    | nil =>
      have := h c.1
      rw [Memory.read_cons, if_pos rfl, Memory.read_nil] at this
      exact absurd this hcb
    | cons d n =>
      obtain ⟨hd, hdb, hn'⟩ := Memory.wf_cons.1 hn
      have hcd : c.1 = d.1 := by
        rcases Nat.lt_trichotomy c.1 d.1 with hlt | heq | hlt
        · have := h c.1
          rw [Memory.read_cons, if_pos rfl, Memory.read_below] at this
          · exact absurd this hcb
          · intro e he
            rcases List.mem_cons.1 he with rfl | he
            · exact hlt
            · exact Nat.lt_trans hlt (hd e he)
        · exact heq
        · have := h d.1
          rw [Memory.read_cons (c := d), if_pos rfl, Memory.read_below] at this
          · exact absurd this.symm hdb
          · intro e he
            rcases List.mem_cons.1 he with rfl | he
            · exact hlt
            · exact Nat.lt_trans hlt (hc e he)
      have hb : c.2 = d.2 := by
        have := h c.1
        rwa [Memory.read_cons, if_pos rfl, Memory.read_cons, if_pos hcd.symm] at this
      have htail : m = n := by
        refine ih hm' hn' fun a => ?_
        by_cases ha : c.1 = a
        · rw [Memory.read_below fun e he => by have := hc e he; omega,
            Memory.read_below fun e he => by have := hd e he; omega]
        · have := h a
          rwa [Memory.read_cons, if_neg ha, Memory.read_cons, if_neg (by omega)] at this
      rw [htail, Prod.ext hcd hb]

/-! ### Byte sequences -/

@[simp] theorem Memory.length_readBytes (m : Memory) (off n : Nat) : (m.readBytes off n).length = n := by
  induction n generalizing off with
  | zero => rfl
  | succ n ih => simp [Memory.readBytes, ih]

theorem Memory.getElem?_readBytes (m : Memory) (off n k : Nat) :
    (m.readBytes off n)[k]? = if k < n then some (m.read (off + k)) else none := by
  induction n generalizing off k with
  | zero => simp [Memory.readBytes]
  | succ n ih =>
    cases k with
    | zero => simp [Memory.readBytes]
    | succ k =>
      simp only [Memory.readBytes, List.getElem?_cons_succ, ih, Nat.add_lt_add_iff_right]
      rw [show off + 1 + k = off + (k + 1) by omega]

theorem Memory.readBytes_congr {m n : Memory} {off cnt : Nat}
    (h : ∀ k < cnt, m.read (off + k) = n.read (off + k)) : m.readBytes off cnt = n.readBytes off cnt := by
  refine List.ext_getElem? fun k => ?_
  rw [Memory.getElem?_readBytes, Memory.getElem?_readBytes]
  split
  · next hk => rw [h k hk]
  · rfl

/-- A byte sequence read from the region is the one whose bytes stand there. -/
theorem Memory.readBytes_eq {m : Memory} {off : Nat} {bs : List Byte}
    (h : ∀ k (hk : k < bs.length), m.read (off + k) = bs[k]) : m.readBytes off bs.length = bs := by
  refine List.ext_getElem? fun k => ?_
  rw [Memory.getElem?_readBytes]
  split
  · next hk => rw [h k hk, List.getElem?_eq_getElem hk]
  · next hk => rw [List.getElem?_eq_none (by omega)]

/-! ### Programs -/

theorem Memory.program_wf {m : Memory} (hm : m.wf) (off : Nat) (bs : List Byte) :
    (m.program off bs).wf := by
  induction bs generalizing m off with
  | nil => exact hm
  | cons b bs ih => exact ih (Memory.write_wf hm off b) (off + 1)

/-- Reading after a program: the new byte inside the range, the old byte outside. -/
theorem Memory.read_program {m : Memory} (hm : m.wf) (off : Nat) (bs : List Byte) (a : Nat) :
    (m.program off bs).read a =
      if off ≤ a ∧ a < off + bs.length then bs.getD (a - off) erasedByte else m.read a := by
  induction bs generalizing m off with
  | nil =>
    simp only [Memory.program, List.length_nil, Nat.add_zero]
    rw [if_neg (by omega)]
  | cons b bs ih =>
    simp only [Memory.program, List.length_cons]
    rw [ih (Memory.write_wf hm off b), Memory.read_write hm]
    by_cases ha : a = off
    · subst ha
      rw [if_neg (by omega), if_pos rfl, if_pos (by omega)]
      simp
    · by_cases hr : off + 1 ≤ a ∧ a < off + 1 + bs.length
      · rw [if_pos hr, if_pos (by omega), show a - off = (a - (off + 1)) + 1 by omega,
          List.getD_cons_succ]
      · rw [if_neg hr, if_neg ha, if_neg (by omega)]

theorem Memory.mem_program {m : Memory} {off : Nat} {bs : List Byte} {c : Host.Cell}
    (h : c ∈ m.program off bs) : (off ≤ c.1 ∧ c.1 < off + bs.length) ∨ c ∈ m := by
  induction bs generalizing m off with
  | nil => exact .inr h
  | cons b bs ih =>
    simp only [List.length_cons]
    rcases ih h with h | h
    · left; omega
    · rcases Memory.mem_write h with h | h
      · left; omega
      · exact .inr h

/-- Reading back the range of a program gives its bytes. -/
theorem Memory.readBytes_program {m : Memory} (hm : m.wf) (off : Nat) (bs : List Byte) :
    (m.program off bs).readBytes off bs.length = bs := by
  refine Memory.readBytes_eq fun k hk => ?_
  rw [Memory.read_program hm, if_pos (by omega)]
  simp [List.getD_eq_getElem?_getD, List.getElem?_eq_getElem hk]

/-- Reading a range a program does not touch gives the bytes of before. -/
theorem Memory.readBytes_program_disjoint {m : Memory} (hm : m.wf) {off off' n : Nat} {bs : List Byte}
    (h : off' + n ≤ off ∨ off + bs.length ≤ off') :
    (m.program off bs).readBytes off' n = m.readBytes off' n := by
  refine Memory.readBytes_congr fun k hk => ?_
  rw [Memory.read_program hm, if_neg (by omega)]

/-! ### Mixes -/

@[simp] theorem length_mixBytes (draw : Nat) (olds news : List Byte) :
    (mixBytes draw olds news).length = min olds.length news.length := by
  induction olds generalizing draw news with
  | nil => simp [mixBytes]
  | cons o olds ih =>
    cases news with
    | nil => simp [mixBytes]
    | cons n news => simp [mixBytes, ih]

/-- Byte `k` of a mix is chosen by bit `k` of the draw. -/
theorem getElem?_mixBytes (draw : Nat) (olds news : List Byte) (k : Nat)
    (ho : k < olds.length) (hn : k < news.length) :
    (mixBytes draw olds news)[k]? = some (if draw.testBit k then news[k] else olds[k]) := by
  induction olds generalizing draw news k with
  | nil => simp at ho
  | cons o olds ih =>
    cases news with
    | nil => simp at hn
    | cons n news =>
      cases k with
      | zero => simp [mixBytes, Nat.testBit_zero]
      | succ k =>
        simp only [List.length_cons, Nat.add_lt_add_iff_right] at ho hn
        simp [mixBytes, ih (draw / 2) news k ho hn, Nat.testBit_succ]

/-! ### Region requests -/

theorem RgnRequest.length_newBytes_le (q : RgnRequest) : q.newBytes.length ≤ q.cnt := by
  cases q <;> simp [RgnRequest.newBytes, RgnRequest.cnt, rep]

theorem RgnRequest.apply_wf {m : Memory} (hm : m.wf) (q : RgnRequest) : (q.apply m).wf :=
  Memory.program_wf hm _ _

theorem RgnRequest.applyPartial_wf {m : Memory} (hm : m.wf) (q : RgnRequest) (draw : Nat) :
    (q.applyPartial draw m).wf :=
  Memory.program_wf hm _ _

@[simp] theorem RgnRequest.apply_read (off cnt : Nat) (m : Memory) :
    (RgnRequest.read off cnt).apply m = m := rfl

@[simp] theorem RgnRequest.applyPartial_read (off cnt draw : Nat) (m : Memory) :
    (RgnRequest.read off cnt).applyPartial draw m = m := rfl

/-- Reading after a request that succeeds. -/
theorem RgnRequest.read_apply {m : Memory} (hm : m.wf) (q : RgnRequest) (a : Nat) :
    (q.apply m).read a =
      if q.off ≤ a ∧ a < q.off + q.newBytes.length then q.newBytes.getD (a - q.off) erasedByte
      else m.read a :=
  Memory.read_program hm _ _ _

/-- Reading after a request that fails or is cut off. -/
theorem RgnRequest.read_applyPartial {m : Memory} (hm : m.wf) (q : RgnRequest) (draw a : Nat) :
    (q.applyPartial draw m).read a =
      if q.off ≤ a ∧ a < q.off + q.newBytes.length then
        if draw.testBit (a - q.off) then q.newBytes.getD (a - q.off) erasedByte else m.read a
      else m.read a := by
  unfold RgnRequest.applyPartial
  rw [Memory.read_program hm]
  simp only [length_mixBytes, Memory.length_readBytes, Nat.min_self]
  split
  · next h =>
    have hk : a - q.off < q.newBytes.length := by omega
    rw [List.getD_eq_getElem?_getD, getElem?_mixBytes _ _ _ _ (by simpa using hk) hk, Option.getD_some]
    have hread : (m.readBytes q.off q.newBytes.length)[a - q.off]'(by simpa using hk) = m.read a := by
      have := Memory.getElem?_readBytes m q.off q.newBytes.length (a - q.off)
      rw [if_pos hk, List.getElem?_eq_getElem (by simpa using hk), Option.some.injEq] at this
      rw [this, show q.off + (a - q.off) = a by omega]
    rw [hread, List.getD_eq_getElem?_getD, List.getElem?_eq_getElem hk, Option.getD_some]
  · rfl

/-- A request in range adds entries inside the region only. -/
theorem RgnRequest.mem_apply {c : Config} {q : RgnRequest} {m : Memory} (hq : q.inRange c = true)
    (hm : ∀ d ∈ m, d.1 < c.regionSize) : ∀ d ∈ q.apply m, d.1 < c.regionSize := by
  intro d hd
  have := q.length_newBytes_le
  simp only [RgnRequest.inRange, decide_eq_true_eq] at hq
  rcases Memory.mem_program hd with h | h
  · omega
  · exact hm d h

theorem RgnRequest.mem_applyPartial {c : Config} {q : RgnRequest} {m : Memory} {draw : Nat}
    (hq : q.inRange c = true) (hm : ∀ d ∈ m, d.1 < c.regionSize) :
    ∀ d ∈ q.applyPartial draw m, d.1 < c.regionSize := by
  intro d hd
  have := q.length_newBytes_le
  simp only [RgnRequest.inRange, decide_eq_true_eq] at hq
  rcases Memory.mem_program hd with h | h
  · simp at h; omega
  · exact hm d h

/-- The region after reset is canonical. -/
theorem State.reset_memory_wf : State.reset.rgn.wf := Memory.wf_nil

end Sys2Proof.Machine
end

