-- ==== Sys2Proof/Laws/Region.lean ====
section
/-! SUPPORT. Everything a request on the region port can do (spec 40_region_ops.md R100 to R105, R241). -/

namespace Sys2Proof.Machine

theorem regionPort_outOfRange {q : RgnRequest} {s : State} (h : q.inRange s.cfg = false) :
    regionPort q s = (.fail, s) := by
  simp [regionPort, h]

/-- A request of no bytes is answered ok (R103). -/
theorem State.answerTo_empty {q : RgnRequest} (s : State) (h : q.cnt = 0) : s.answerTo q = .ok := if_pos h

/-- A request of some bytes is answered by the platform (R104). -/
theorem State.answerTo_pos {q : RgnRequest} (s : State) (h : q.cnt ≠ 0) : s.answerTo q = s.nextAnswer :=
  if_neg h

theorem State.answerTo_ok {q : RgnRequest} {s : State} :
    s.answerTo q = .ok ↔ q.cnt = 0 ∨ s.nextAnswer = .ok := by
  unfold State.answerTo
  split <;> simp_all

theorem regionPort_ok {q : RgnRequest} {s : State} (h : q.inRange s.cfg = true)
    (ha : s.answerTo q = .ok) :
    regionPort q s = (.ok (q.data s.rgn), s.popAnswer.setRgn (q.apply s.rgn)) := by
  simp [regionPort, h, ha]

theorem regionPort_fail {q : RgnRequest} {s : State} {draw : Nat} (h : q.inRange s.cfg = true)
    (ha : s.answerTo q = .fail draw) :
    regionPort q s = (.fail, s.popAnswer.setRgn (q.applyPartial draw s.rgn)) := by
  simp [regionPort, h, ha]

theorem regionPort_never {q : RgnRequest} {s : State} (h : q.inRange s.cfg = true)
    (ha : s.answerTo q = .never) :
    regionPort q s = (.never, s.popAnswer.await q) := by
  simp [regionPort, h, ha]

/-- The next request of a platform that lets some succeed is answered ok. -/
theorem State.okFor.nextAnswer {s : State} {k : Nat} (h : s.okFor (k + 1)) : s.nextAnswer = .ok := by
  have := h 0 (Nat.succ_pos k)
  rwa [List.getD_eq_getElem?_getD, ← List.head?_eq_getElem?, ← List.headD_eq_head?_getD] at this

/-- What is left of the requests that succeed after the first `a` of them. -/
theorem State.okFor.drop {s t : State} {k : Nat} (a : Nat) (h : s.okFor (a + k))
    (ht : t.answers = s.answers.drop a) : t.okFor k := fun j hj => by
  rw [ht, List.getD_eq_getElem?_getD, List.getElem?_drop, ← List.getD_eq_getElem?_getD]
  exact h (a + j) (by omega)

theorem State.okFor.mono {s : State} {k n : Nat} (h : s.okFor n) (hk : k ≤ n) : s.okFor k :=
  fun j hj => h j (by omega)

theorem RgnRequest.inRange_iff {c : Config} {q : RgnRequest} :
    q.inRange c = true ↔ q.off + q.cnt ≤ c.regionSize := by
  simp [RgnRequest.inRange]

theorem regionTransaction_busy {q : RgnRequest} {s : State} (h : s.busy = true) :
    regionTransaction q s = s := by
  simp [regionTransaction, h]

theorem regionTransaction_outOfRange {q : RgnRequest} {s : State} (hb : s.busy = false)
    (h : q.inRange s.cfg = false) : regionTransaction q s = s.reply (.region false []) := by
  simp [regionTransaction, hb, regionPort_outOfRange h]

theorem regionTransaction_ok {q : RgnRequest} {s : State} (hb : s.busy = false) (h : q.inRange s.cfg = true)
    (ha : s.answerTo q = .ok) : regionTransaction q s =
      (s.popAnswer.setRgn (q.apply s.rgn)).reply (.region true (q.data s.rgn)) := by
  simp [regionTransaction, hb, regionPort_ok h ha]

theorem regionTransaction_fail {q : RgnRequest} {s : State} {draw : Nat} (hb : s.busy = false)
    (h : q.inRange s.cfg = true) (ha : s.answerTo q = .fail draw) : regionTransaction q s =
      (s.popAnswer.setRgn (q.applyPartial draw s.rgn)).reply (.region false []) := by
  simp [regionTransaction, hb, regionPort_fail h ha]

theorem regionTransaction_never {q : RgnRequest} {s : State} (hb : s.busy = false) (h : q.inRange s.cfg = true)
    (ha : s.answerTo q = .never) : regionTransaction q s = s.popAnswer.await q := by
  simp [regionTransaction, hb, regionPort_never h ha]

/-- What a transaction on the region port can be: not accepted, out of range, or one of the platform's
three answers. -/
theorem regionTransaction_cases (q : RgnRequest) (s : State) :
    (s.busy = true ∧ regionTransaction q s = s) ∨
    (s.busy = false ∧ q.inRange s.cfg = false ∧
      regionTransaction q s = s.reply (.region false [])) ∨
    (s.busy = false ∧ q.inRange s.cfg = true ∧ s.answerTo q = .ok ∧ regionTransaction q s =
      (s.popAnswer.setRgn (q.apply s.rgn)).reply (.region true (q.data s.rgn))) ∨
    (s.busy = false ∧ q.inRange s.cfg = true ∧ (∃ draw, s.answerTo q = .fail draw ∧
      regionTransaction q s =
        (s.popAnswer.setRgn (q.applyPartial draw s.rgn)).reply (.region false []))) ∨
    (s.busy = false ∧ q.inRange s.cfg = true ∧ s.answerTo q = .never ∧
      regionTransaction q s = s.popAnswer.await q) := by
  cases hb : s.busy with
  | true => exact .inl ⟨rfl, regionTransaction_busy hb⟩
  | false =>
    cases hq : q.inRange s.cfg with
    | false => exact .inr (.inl ⟨rfl, rfl, regionTransaction_outOfRange hb hq⟩)
    | true =>
      cases ha : s.answerTo q with
      | ok => exact .inr (.inr (.inl ⟨rfl, rfl, rfl, regionTransaction_ok hb hq ha⟩))
      | fail draw =>
        exact .inr (.inr (.inr (.inl ⟨rfl, rfl, draw, rfl, regionTransaction_fail hb hq ha⟩)))
      | never => exact .inr (.inr (.inr (.inr ⟨rfl, rfl, rfl, regionTransaction_never hb hq ha⟩)))

end Sys2Proof.Machine
end

