-- ==== Sys2Proof/Laws/Store.lean ====
section
/-! SUPPORT. The parts of the store commands (spec 43_block_store.md): what one region request of a command
can do, what a scan reaches when its requests succeed, and the rule by which a property is carried
through a scan. -/

namespace Sys2Proof.Machine

/-- A property of a flow: one for a command that goes on, one for a command that has ended or waits. -/
def Flow.holds (f : Flow) (goes ends : State → Prop) : Prop :=
  match f with
  | .go s => goes s
  | .ended s => ends s

@[simp] theorem Flow.holds_go (s : State) (p e : State → Prop) : (Flow.go s).holds p e ↔ p s := Iff.rfl

@[simp] theorem Flow.holds_ended (s : State) (p e : State → Prop) : (Flow.ended s).holds p e ↔ e s := Iff.rfl

@[simp] theorem Flow.andThen_go (s : State) (k : State → State) : (Flow.go s).andThen k = k s := rfl

@[simp] theorem Flow.andThen_ended (s : State) (k : State → State) : (Flow.ended s).andThen k = s := rfl

theorem Flow.holds_andThen {f : Flow} {k : State → State} {Q : State → Prop}
    (h : f.holds (fun s => Q (k s)) Q) : Q (f.andThen k) := by
  cases f <;> exact h

/-- One region request of a store command: success, HardwareFault, or no answer (R15, R203, R241). -/
theorem storeAccess_holds {q : RgnRequest} {s : State} {k : List Byte → State → State}
    {G E : State → Prop} (hq : q.inRange s.cfg = true) (hn : q.cnt ≠ 0)
    (hok : s.nextAnswer = .ok →
      G (k (q.data s.rgn) ((s.traced q).popAnswer.setRgn (q.apply s.rgn))))
    (hfail : ∀ draw, s.nextAnswer = .fail draw →
      E (((s.traced q).popAnswer.setRgn (q.applyPartial draw s.rgn)).raise .hardwareFault))
    (hnever : s.nextAnswer = .never → E ((s.traced q).popAnswer.await q)) :
    (storeAccess q s k).holds G E := by
  have hq' : q.inRange (s.traced q).cfg = true := hq
  have hn' : (s.traced q).answerTo q = s.nextAnswer := State.answerTo_pos _ hn
  unfold storeAccess
  cases ha : s.nextAnswer with
  | ok => rw [regionPort_ok hq' (hn'.trans ha)]; exact hok ha
  | fail draw => rw [regionPort_fail hq' (hn'.trans ha)]; exact hfail draw ha
  | never => rw [regionPort_never hq' (hn'.trans ha)]; exact hnever ha

theorem storeAccess_ok {q : RgnRequest} {s : State} {k : List Byte → State → State}
    (hq : q.inRange s.cfg = true) (ha : s.answerTo q = .ok) :
    storeAccess q s k = .go (k (q.data s.rgn) ((s.traced q).popAnswer.setRgn (q.apply s.rgn))) := by
  unfold storeAccess
  rw [regionPort_ok (s := s.traced q) hq ha]
  rfl

theorem storeAccess_fail {q : RgnRequest} {s : State} {k : List Byte → State → State} {draw : Nat}
    (hq : q.inRange s.cfg = true) (ha : s.answerTo q = .fail draw) :
    storeAccess q s k =
      .ended (((s.traced q).popAnswer.setRgn (q.applyPartial draw s.rgn)).raise .hardwareFault) := by
  unfold storeAccess
  rw [regionPort_fail (s := s.traced q) hq ha]
  rfl

theorem storeAccess_outOfRange {q : RgnRequest} {s : State} {k : List Byte → State → State}
    (hq : q.inRange s.cfg = false) : storeAccess q s k = .ended ((s.traced q).raise .hardwareFault) := by
  unfold storeAccess
  rw [regionPort_outOfRange (s := s.traced q) hq]

theorem storeAccess_never {q : RgnRequest} {s : State} {k : List Byte → State → State}
    (hq : q.inRange s.cfg = true) (ha : s.answerTo q = .never) :
    storeAccess q s k = .ended ((s.traced q).popAnswer.await q) := by
  unfold storeAccess
  rw [regionPort_never (s := s.traced q) hq ha]

/-- The region read of slot `i` (R161). -/
def Config.slotRead (c : Config) (i : Nat) : RgnRequest := .read (c.slotOff i) c.recordSize

theorem slotRead_inRange {c : Config} {i : Nat} (h : i < c.recordCount) :
    (Config.slotRead c i).inRange c = true := by
  obtain ⟨h1, h2⟩ := Config.slot_inside h
  exact decide_eq_true (Nat.le_trans h1 h2)

theorem slotRead_cnt (c : Config) (i : Nat) : (Config.slotRead c i).cnt ≠ 0 :=
  Nat.ne_of_gt c.recordSize_pos

theorem slotProg_cnt {c : Config} {off : Nat} {img : List Byte} (hl : img.length = c.recordSize) :
    (RgnRequest.prog off img).cnt ≠ 0 := by
  show img.length ≠ 0
  rw [hl]
  exact Nat.ne_of_gt c.recordSize_pos

theorem slotProg_inRange {c : Config} {i : Nat} {img : List Byte} (h : i < c.recordCount)
    (hl : img.length = c.recordSize) : (RgnRequest.prog (c.slotOff i) img).inRange c = true := by
  obtain ⟨h1, h2⟩ := Config.slot_inside h
  refine decide_eq_true ?_
  show c.slotOff i + img.length ≤ c.regionSize
  omega

theorem eraseAll_inRange (c : Config) : (RgnRequest.erase 0 c.regionSize).inRange c = true := by
  simp [RgnRequest.inRange, RgnRequest.off, RgnRequest.cnt]

theorem eraseAll_cnt {c : Config} (h : c.legal = true) : (RgnRequest.erase 0 c.regionSize).cnt ≠ 0 := by
  obtain ⟨_, _, _, hc, _⟩ := Config.legal_bounds h
  have := Nat.div_mul_le_self c.regionSize c.recordSize
  have h1 : 1 * c.recordSize ≤ c.recordCount * c.recordSize := Nat.mul_le_mul_right _ hc
  have := c.recordSize_pos
  show c.regionSize ≠ 0
  unfold Config.recordCount at h1
  omega

/-- `LoadSlot(i)` when the platform succeeds (R161). -/
def State.loaded (s : State) (i : Nat) : State :=
  (((s.traced (Config.slotRead s.cfg i)).popAnswer).setImg (s.slotImg i)).recDec

theorem loadSlot_ok {s : State} {i : Nat} (hi : i < s.cfg.recordCount) (ha : s.nextAnswer = .ok) :
    loadSlot i s = .go (s.loaded i) :=
  storeAccess_ok (q := Config.slotRead s.cfg i) (slotRead_inRange hi) (State.answerTo_ok.2 (.inr ha))

/-- What `LoadSlot(i)` can do (R161, R203, R241). -/
theorem loadSlot_holds {s : State} {i : Nat} {G E : State → Prop} (hi : i < s.cfg.recordCount)
    (hok : s.nextAnswer = .ok → G (s.loaded i))
    (hfail : ∀ draw, s.nextAnswer = .fail draw →
      E ((s.traced (Config.slotRead s.cfg i)).popAnswer.raise .hardwareFault))
    (hnever : s.nextAnswer = .never →
      E ((s.traced (Config.slotRead s.cfg i)).popAnswer.await (Config.slotRead s.cfg i))) :
    (loadSlot i s).holds G E :=
  storeAccess_holds (q := Config.slotRead s.cfg i) (slotRead_inRange hi) (slotRead_cnt _ _) hok hfail hnever

/-- Carrying a property through a scan: `P n` holds before each slot with `n` slots left. -/
theorem scan_holds {test : Record → Bool} {found exhausted : State → State} {P : Nat → State → Prop}
    {Q : State → Prop}
    (hload : ∀ n s, P (n + 1) s → (loadSlot s.ptr.toNat s).holds
      (fun t => (test t.record = true → Q (found t)) ∧
        (test t.record = false → P n (t.setPtr (t.ptr + 1)))) Q)
    (hex : ∀ s, P 0 s → Q (exhausted s)) :
    ∀ n s, P n s → Q (scan test found exhausted n s) := by
  intro n
  induction n with
  | zero => exact hex
  | succ n ih =>
    intro s hs
    refine Flow.holds_andThen ?_
    have := hload n s hs
    cases hl : loadSlot s.ptr.toNat s with
    | ended t => rw [hl] at this; exact this
    | go t =>
      rw [hl] at this
      simp only [Flow.holds_go]
      cases ht : test t.record with
      | true => simpa [ht] using this.1 ht
      | false => simpa [ht] using ih _ (this.2 ht)

/-- The state in which a scan that began at slot `p` has loaded slot `m`, the platform succeeding. -/
def State.scanned (s : State) (p m : Nat) : State :=
  { s with
    ptr := BitVec.ofNat 16 m
    img := s.slotImg m
    record := s.slotRec m
    trace := s.trace ++ (List.range' p (m + 1 - p)).map (Config.slotRead s.cfg)
    answers := s.answers.drop (m + 1 - p)
    written := { s.written with record := true, img := true, ptr := true } }

theorem State.loaded_eq_scanned {s : State} {p : Nat} (hp : s.ptr = BitVec.ofNat 16 p)
    (hw : s.written.ptr = true) : s.loaded p = s.scanned p p := by
  simp [State.loaded, State.scanned, State.recDec, State.noteRead, State.setRecord, State.setImg,
    State.popAnswer, State.traced, State.slotRec, State.slotImg, hp, hw,
    List.range'_one, ← List.drop_one]

theorem ptr_toNat {m : Nat} (h : m ≤ 65535) : (BitVec.ofNat 16 m).toNat = m := by
  simp [BitVec.toNat_ofNat]; omega

theorem ptr_succ (m : Nat) : (BitVec.ofNat 16 m : BitVec 16) + 1 = BitVec.ofNat 16 (m + 1) := by
  rw [BitVec.ofNat_add]
  rfl

/-- The pointer moves past a loaded slot and the next slot is loaded. -/
theorem State.scanned_next (s : State) {p m : Nat} (hm : p < m) :
    ((s.scanned p p).setPtr (BitVec.ofNat 16 (p + 1))).scanned (p + 1) m = s.scanned p m := by
  have h1 : m + 1 - p = (m + 1 - (p + 1)) + 1 := by omega
  simp only [State.scanned, State.setPtr, State.slotImg, State.slotRec]
  rw [h1, List.range'_succ]
  simp [List.append_assoc]

/-- When its requests succeed, a scan from slot `p` stops at the first slot that passes. -/
theorem scan_found {test : Record → Bool} {found exhausted : State → State} :
    ∀ (n : Nat) (s : State) (p m : Nat), s.cfg.recordCount ≤ 65535 → s.okFor (m + 1 - p) →
      s.ptr = BitVec.ofNat 16 p → s.written.ptr = true → p + n = s.cfg.recordCount → p ≤ m →
      m < s.cfg.recordCount → test (s.slotRec m) = true → (∀ i, p ≤ i → i < m → test (s.slotRec i) = false) →
      scan test found exhausted n s = found (s.scanned p m) := by
  intro n
  induction n with
  | zero => intro s p m _ _ _ _ hn hpm hm; omega
  | succ n ih =>
    intro s p m hc hok hptr hw hn hpm hm ht hbefore
    have hp : p < s.cfg.recordCount := by omega
    have hok' : s.okFor (1 + (m - p)) := hok.mono (by omega)
    unfold scan
    rw [hptr, ptr_toNat (by omega), loadSlot_ok hp (hok'.mono (by omega) : s.okFor (0 + 1)).nextAnswer,
      State.loaded_eq_scanned hptr hw, Flow.andThen_go]
    have hrec : (s.scanned p p).record = s.slotRec p := rfl
    by_cases hpm' : p = m
    · subst hpm'
      rw [hrec, if_pos ht]
    · rw [hrec, if_neg (by simp [hbefore p (Nat.le_refl p) (by omega)])]
      have hptr' : (s.scanned p p).ptr + 1 = BitVec.ofNat 16 (p + 1) := ptr_succ p
      rw [hptr']
      rw [ih ((s.scanned p p).setPtr (BitVec.ofNat 16 (p + 1))) (p + 1) m hc
        ((hok'.drop 1 (by show s.answers.drop (p + 1 - p) = _; congr 1; omega)).mono (by omega)) rfl rfl
        (by show p + 1 + n = s.cfg.recordCount; omega) (by omega) hm ht
        (fun i hi hi' => hbefore i (by omega) hi'), State.scanned_next s (by omega)]

/-- When its requests succeed, a scan from slot `p` past slots that all fail the test ends beyond
the last one. -/
theorem scan_exhausted {test : Record → Bool} {found exhausted : State → State} :
    ∀ (n : Nat) (s : State) (p : Nat), s.cfg.recordCount ≤ 65535 → s.okFor (n + 1) →
      s.ptr = BitVec.ofNat 16 p → s.written.ptr = true → p + (n + 1) = s.cfg.recordCount →
      (∀ i, p ≤ i → i < s.cfg.recordCount → test (s.slotRec i) = false) →
      scan test found exhausted (n + 1) s =
        exhausted ((s.scanned p (s.cfg.recordCount - 1)).setPtr (BitVec.ofNat 16 s.cfg.recordCount)) := by
  intro n
  induction n with
  | zero =>
    intro s p hc hok hptr hw hn hbefore
    have hp : p < s.cfg.recordCount := by omega
    unfold scan
    rw [hptr, ptr_toNat (by omega), loadSlot_ok hp hok.nextAnswer, State.loaded_eq_scanned hptr hw,
      Flow.andThen_go]
    have hrec : (s.scanned p p).record = s.slotRec p := rfl
    rw [hrec, if_neg (by simp [hbefore p (Nat.le_refl p) hp])]
    have hptr' : (s.scanned p p).ptr + 1 = BitVec.ofNat 16 (p + 1) := ptr_succ p
    rw [hptr', show s.cfg.recordCount - 1 = p by omega, show s.cfg.recordCount = p + 1 by omega]
    rfl
  | succ n ih =>
    intro s p hc hok hptr hw hn hbefore
    have hp : p < s.cfg.recordCount := by omega
    rw [scan]
    rw [hptr, ptr_toNat (by omega), loadSlot_ok hp hok.nextAnswer, State.loaded_eq_scanned hptr hw,
      Flow.andThen_go]
    have hrec : (s.scanned p p).record = s.slotRec p := rfl
    rw [hrec, if_neg (by simp [hbefore p (Nat.le_refl p) hp])]
    have hptr' : (s.scanned p p).ptr + 1 = BitVec.ofNat 16 (p + 1) := ptr_succ p
    rw [hptr']
    rw [ih ((s.scanned p p).setPtr (BitVec.ofNat 16 (p + 1))) (p + 1) hc
      ((hok.mono (by omega) : s.okFor (1 + (n + 1))).drop 1
        (by show s.answers.drop (p + 1 - p) = _; congr 1; omega)) rfl rfl
      (by show p + 1 + (n + 1) = s.cfg.recordCount; omega) (fun i hi hi' => hbefore i (by omega) hi')]
    have := State.scanned_next s (p := p) (m := s.cfg.recordCount - 1) (by omega)
    show exhausted (((((s.scanned p p).setPtr (BitVec.ofNat 16 (p + 1))).scanned (p + 1)
      (s.cfg.recordCount - 1)).setPtr (BitVec.ofNat 16 s.cfg.recordCount))) = _
    rw [this]

/-! ### The other parts when their requests succeed -/

/-- `ProgSlot(i)` when the platform succeeds (R162). -/
def State.programmed (s : State) (i : Nat) : State :=
  ((s.traced (.prog (s.cfg.slotOff i) s.img)).popAnswer).setRgn (s.rgn.program (s.cfg.slotOff i) s.img)

theorem progSlot_ok {s : State} {i : Nat} (hi : i < s.cfg.recordCount) (hl : s.img.length = s.cfg.recordSize)
    (ha : s.nextAnswer = .ok) : progSlot i s = .go (s.programmed i) :=
  storeAccess_ok (q := .prog (s.cfg.slotOff i) s.img) (slotProg_inRange hi hl) (State.answerTo_ok.2 (.inr ha))

/-- The uncomplemented remainder is the complement of the checksum (R128). -/
theorem crcRun_eq (bs : List Byte) : crcRun bs = crc32 bs ^^^ 0xFFFFFFFF := by
  show _ = crcRun bs ^^^ 0xFFFFFFFF ^^^ 0xFFFFFFFF
  rw [BitVec.xor_assoc, BitVec.xor_self, BitVec.xor_zero]

/-- `Seal` as one update (R163). -/
theorem State.sealed_eq {s : State} (hw : s.written.record = true) : s.sealed = { s with
    record := sealedRecord s.cfg s.record
    img := encodeRecord s.cfg (sealedRecord s.cfg s.record)
    crc := (sealedRecord s.cfg s.record).checksum ^^^ 0xFFFFFFFF
    written := { s.written with crc := true, record := true, img := true } } := by
  have : s.sealed.crc = (sealedRecord s.cfg s.record).checksum ^^^ 0xFFFFFFFF := by
    rw [State.sealed_crc, crcRun_eq]
    rfl
  rw [← this]
  simp [State.sealed, State.recEnc, State.recCsum, State.setChecksum, State.setRecord, State.setCrc,
    State.setImg, State.noteRead, State.csumValue, sealedRecord, recordCsum, hw]

/-- A command's state when its body begins its scan (R164, R169). -/
def State.begun (s : State) (q : Seq) : State := ({ s with trace := [] }.setSeq q).setPtr 0

theorem scanTrace_eq (c : Config) (m : Nat) :
    (List.range' 0 (m + 1 - 0)).map (Config.slotRead c) = scanTrace c m := by
  rw [scanTrace, List.range_eq_range']
  rfl

/-- Slot `m` loaded by a command's scan, the platform succeeding. -/
theorem State.begun_scanned (s : State) (q : Seq) (m : Nat) : (s.begun q).scanned 0 m = { s with
    seq := q, ptr := BitVec.ofNat 16 m, img := s.slotImg m, record := s.slotRec m
    trace := scanTrace s.cfg m, answers := s.answers.drop (m + 1)
    written := { s.written with record := true, img := true, ptr := true } } := by
  have := scanTrace_eq s.cfg m
  unfold State.scanned
  rw [show (s.begun q).cfg = s.cfg from rfl, this]
  rfl

end Sys2Proof.Machine
end

