-- ==== Sys2Proof/Laws/Command.lean ====
section
/-! SUPPORT. Everything a store command can do, whatever the platform answers (spec 43_block_store.md
R160 to R172, 60_exceptions.md R203): `During` holds of every state inside a command, `Ends` says how the
command ends or waits. -/

namespace Sys2Proof.Machine

/-- `s` is a state inside a command that began in `s₀`. -/
structure State.During (s₀ s : State) : Prop where
  cfg : s.cfg = s₀.cfg
  inputs : s.inputs = s₀.inputs
  testFault : s.testFault = s₀.testFault
  inflight : s.inflight = s₀.inflight
  fault : s.fault = s₀.fault
  status : s.status = s₀.status
  rlen : s.rlen = s₀.rlen
  rdata : s.rdata = s₀.rdata
  resp : s.resp = s₀.resp
  running : s.seq.running = true
  answers : s.answers = s₀.answers.drop s.trace.length
  okSoFar : ∀ j < s.trace.length, s₀.answers.getD j .ok = .ok
  traceRange : ∀ q ∈ s.trace, q.inRange s₀.cfg = true
  memWf : s₀.rgn.wf → s.rgn.wf
  memBound : (∀ c ∈ s₀.rgn, c.1 < s₀.cfg.regionSize) → ∀ c ∈ s.rgn, c.1 < s₀.cfg.regionSize
  imgLen : s₀.img.length = s₀.cfg.recordSize → s.img.length = s₀.cfg.recordSize
  recSized : s₀.record.sized s₀.cfg = true → s.record.sized s₀.cfg = true
  ptrRange : s.ptr.toNat ≤ s₀.cfg.recordCount

/-- How a command ends or waits: `P` holds of its states, `D` relates its last one to the result of a
command that came to its end, `A` holds of the request that failed or was not answered. -/
def Ends (P : State → Prop) (D : State → State → Prop) (A : RgnRequest → Prop) (t : State) : Prop :=
  (∃ s, P s ∧ D s t) ∨
  (∃ s q draw, P s ∧ A q ∧ q.inRange s.cfg = true ∧ s.nextAnswer = .fail draw ∧
    t = ((s.traced q).popAnswer.setRgn (q.applyPartial draw s.rgn)).raise .hardwareFault) ∨
  (∃ s q, P s ∧ A q ∧ q.inRange s.cfg = true ∧ s.nextAnswer = .never ∧ t = (s.traced q).popAnswer.await q)

theorem Ends.mono {P P' : State → Prop} {D : State → State → Prop}
    {A : RgnRequest → Prop} {t : State} (h : Ends P D A t) (hP : ∀ s, P s → P' s) : Ends P' D A t := by
  rcases h with ⟨s, h, h'⟩ | ⟨s, q, d, h, h'⟩ | ⟨s, q, h, h'⟩
  · exact .inl ⟨s, hP s h, h'⟩
  · exact .inr (.inl ⟨s, q, d, hP s h, h'⟩)
  · exact .inr (.inr ⟨s, q, hP s h, h'⟩)

variable {s₀ s : State}

/-- A command's codec and pointer operations keep `During`. -/
theorem State.During.update (h : s₀.During s) {t : State} (hcfg : t.cfg = s.cfg) (hin : t.inputs = s.inputs)
    (htf : t.testFault = s.testFault) (hfl : t.inflight = s.inflight) (hf : t.fault = s.fault)
    (hst : t.status = s.status) (hrl : t.rlen = s.rlen) (hrd : t.rdata = s.rdata) (hre : t.resp = s.resp)
    (han : t.answers = s.answers) (htr : t.trace = s.trace) (hrg : t.rgn = s.rgn)
    (hseq : t.seq.running = true)
    (himg : s₀.img.length = s₀.cfg.recordSize → t.img.length = s₀.cfg.recordSize)
    (hrec : s₀.record.sized s₀.cfg = true → t.record.sized s₀.cfg = true)
    (hptr : t.ptr.toNat ≤ s₀.cfg.recordCount) : s₀.During t where
  cfg := hcfg.trans h.cfg
  inputs := hin.trans h.inputs
  testFault := htf.trans h.testFault
  inflight := hfl.trans h.inflight
  fault := hf.trans h.fault
  status := hst.trans h.status
  rlen := hrl.trans h.rlen
  rdata := hrd.trans h.rdata
  resp := hre.trans h.resp
  running := hseq
  answers := by rw [han, htr]; exact h.answers
  okSoFar := by rw [htr]; exact h.okSoFar
  traceRange := by rw [htr]; exact h.traceRange
  memWf := by rw [hrg]; exact h.memWf
  memBound := by rw [hrg]; exact h.memBound
  imgLen := himg
  recSized := hrec
  ptrRange := hptr

/-- A region request that succeeds keeps `During`. -/
theorem State.During.access (h : s₀.During s) {q : RgnRequest} (hq : q.inRange s.cfg = true)
    (ha : s.nextAnswer = .ok) : s₀.During ((s.traced q).popAnswer.setRgn (q.apply s.rgn)) where
  cfg := h.cfg
  inputs := h.inputs
  testFault := h.testFault
  inflight := h.inflight
  fault := h.fault
  status := h.status
  rlen := h.rlen
  rdata := h.rdata
  resp := h.resp
  running := h.running
  answers := by
    show s.answers.tail = s₀.answers.drop (s.trace ++ [q]).length
    rw [h.answers, List.tail_drop]; simp
  okSoFar := fun j hj => by
    have hj' : j < s.trace.length + 1 := by simpa using hj
    by_cases hl : j < s.trace.length
    · exact h.okSoFar j hl
    · obtain rfl : j = s.trace.length := by omega
      rw [← ha, State.nextAnswer, h.answers, List.headD_eq_head?_getD, List.head?_drop]
      cases hg : s₀.answers[s.trace.length]? <;> simp [List.getD_eq_getElem?_getD, hg]
  traceRange := fun p hp => by
    rcases List.mem_append.1 hp with hp | hp
    · exact h.traceRange p hp
    · obtain rfl := List.mem_singleton.1 hp
      exact h.cfg ▸ hq
  memWf := fun h0 => q.apply_wf (h.memWf h0)
  memBound := fun h0 => h.cfg ▸ RgnRequest.mem_apply hq (h.cfg ▸ h.memBound h0)
  imgLen := h.imgLen
  recSized := h.recSized
  ptrRange := h.ptrRange

/-- Carrying `During` and a condition `C` of the command through one region request. -/
theorem Ends.access {C : State → Prop} {D : State → State → Prop} {A : RgnRequest → Prop} {q : RgnRequest}
    {k : List Byte → State → State} {k' : State → State} (h : s₀.During s) (hC : C s)
    (hA : A q) (hq : q.inRange s.cfg = true) (hn : q.cnt ≠ 0)
    (hok : s.nextAnswer = .ok → Ends (fun u => s₀.During u ∧ C u) D A
      (k' (k (q.data s.rgn) ((s.traced q).popAnswer.setRgn (q.apply s.rgn))))) :
    Ends (fun u => s₀.During u ∧ C u) D A ((storeAccess q s k).andThen k') :=
  Flow.holds_andThen (storeAccess_holds (E := Ends (fun u => s₀.During u ∧ C u) D A) hq hn hok
    (fun draw ha => .inr (.inl ⟨s, q, draw, ⟨h, hC⟩, hA, hq, ha, rfl⟩))
    (fun ha => .inr (.inr ⟨s, q, ⟨h, hC⟩, hA, hq, ha, rfl⟩)))

/-! ### What holds once a slot is loaded -/

/-- The working image and record have been written by this command and have their sizes. -/
structure State.Loaded (s : State) : Prop where
  imgLen : s.img.length = s.cfg.recordSize
  recSized : s.record.sized s.cfg = true
  img : s.written.img = true
  record : s.written.record = true

theorem State.loaded_During (h : s₀.During s) {i : Nat} (hi : i < s.cfg.recordCount) (ha : s.nextAnswer = .ok) :
    s₀.During (s.loaded i) ∧ (s.loaded i).Loaded := by
  have hl : (s.slotImg i).length = s.cfg.recordSize := by simp [State.slotImg]
  have hr := h.access (q := Config.slotRead s.cfg i) (slotRead_inRange hi) ha
  have himg : (s.loaded i).img = s.slotImg i := rfl
  have hrec : (s.loaded i).record = s.slotRec i := rfl
  have hsz : (s.slotRec i).sized s.cfg = true := sized_decodeRecord hl
  refine ⟨hr.update rfl rfl ?_ rfl rfl rfl rfl rfl rfl rfl rfl rfl hr.running (fun _ => ?_) (fun _ => ?_)
    hr.ptrRange, hl, hsz, rfl, rfl⟩
  · simp [State.loaded]
  · rw [himg, hl, h.cfg]
  · rw [hrec, ← h.cfg]; exact hsz

/-- Setting the sequencer to a running state. -/
theorem State.During.setSeq (h : s₀.During s) {q : Seq} (hq : q.running = true) : s₀.During (s.setSeq q) :=
  h.update rfl rfl rfl rfl rfl rfl rfl rfl rfl rfl rfl rfl hq h.imgLen h.recSized h.ptrRange

theorem State.During.setPtr (h : s₀.During s) {p : BitVec 16} (hp : p.toNat ≤ s₀.cfg.recordCount) :
    s₀.During (s.setPtr p) :=
  h.update rfl rfl rfl rfl rfl rfl rfl rfl rfl rfl rfl rfl h.running h.imgLen h.recSized hp

theorem State.During.updated (h : s₀.During s) (n : Nat) (w : List Byte) : s₀.During (s.updated n w) := by
  refine h.update rfl rfl rfl rfl rfl rfl rfl rfl rfl rfl rfl rfl h.running h.imgLen (fun h0 => ?_) h.ptrRange
  have := Record.sized_iff.1 (h.recSized h0)
  exact Record.sized_iff.2 ⟨(length_overlay _ _ _).trans this.1, this.2⟩

theorem State.Loaded.updated (h : s.Loaded) (n : Nat) (w : List Byte) : (s.updated n w).Loaded where
  imgLen := h.imgLen
  recSized := Record.sized_iff.2
    ⟨(length_overlay _ _ _).trans (Record.sized_iff.1 h.recSized).1, (Record.sized_iff.1 h.recSized).2⟩
  img := h.img
  record := rfl

theorem State.During.sealed (h : s₀.During s) (hl : s.Loaded) : s₀.During s.sealed := by
  refine h.update rfl rfl ?_ rfl rfl rfl rfl rfl rfl rfl rfl rfl h.running (fun _ => ?_)
    (fun h0 => Record.sized_checksum (h.recSized h0) _) h.ptrRange
  · simp [hl.record]
  · rw [State.sealed_img, ← h.cfg]
    exact length_encodeRecord (Record.sized_checksum hl.recSized _)

theorem State.Loaded.sealed (h : s.Loaded) : s.sealed.Loaded where
  imgLen := length_encodeRecord (Record.sized_checksum h.recSized _)
  recSized := Record.sized_checksum h.recSized _
  img := rfl
  record := rfl

theorem State.During.loadErased (h : s₀.During s) : s₀.During s.loadErased := by
  refine h.update rfl rfl ?_ rfl rfl rfl rfl rfl rfl rfl rfl rfl h.running (fun _ => ?_) (fun _ => ?_) h.ptrRange
  · simp [State.loadErased]
  · simp [State.loadErased, length_erasedImg, h.cfg]
  · rw [← h.cfg]; exact sized_erasedRecord s.cfg

theorem State.loadErased_Loaded (s : State) : s.loadErased.Loaded where
  imgLen := length_erasedImg s.cfg
  recSized := sized_erasedRecord s.cfg
  img := rfl
  record := rfl

/-! ### The commands -/

/-- A scan: `C` is carried from slot to slot, and the ends of the scan are ends of the command. -/
theorem scan_Ends {test : Record → Bool} {found exhausted : State → State} {C : State → Prop}
    {D : State → State → Prop} {A : RgnRequest → Prop} (hc : s₀.cfg.recordCount ≤ 65535)
    (hA : ∀ i, A (Config.slotRead s₀.cfg i)) (hload : ∀ u i, C u → C (u.loaded i)) (hnext : ∀ u p, C u → C (u.setPtr p))
    (hfound : ∀ u, s₀.During u → u.Loaded → C u → u.ptr.toNat < s₀.cfg.recordCount →
      test u.record = true → Ends (fun u => s₀.During u ∧ C u) D A (found u))
    (hex : ∀ u, s₀.During u → C u → Ends (fun u => s₀.During u ∧ C u) D A (exhausted u)) :
    ∀ n s, s₀.During s → C s → s.ptr.toNat + n = s₀.cfg.recordCount →
      Ends (fun u => s₀.During u ∧ C u) D A (scan test found exhausted n s) := by
  intro n s h hC hn
  refine scan_holds (P := fun n s => s₀.During s ∧ C s ∧ s.ptr.toNat + n = s₀.cfg.recordCount)
    (Q := Ends (fun u => s₀.During u ∧ C u) D A) ?_ (fun s hs => hex s hs.1 hs.2.1) n s ⟨h, hC, hn⟩
  rintro n s ⟨h, hC, hn⟩
  have hi : s.ptr.toNat < s.cfg.recordCount := by rw [h.cfg]; omega
  refine loadSlot_holds hi (fun ha => ?_)
    (fun d ha => .inr (.inl ⟨s, _, d, ⟨h, hC⟩, h.cfg ▸ hA _, slotRead_inRange hi, ha, ?_⟩))
    (fun ha => .inr (.inr ⟨s, _, ⟨h, hC⟩, h.cfg ▸ hA _, slotRead_inRange hi, ha, rfl⟩))
  · obtain ⟨hd, hl⟩ := State.loaded_During h hi ha
    have hp : (s.loaded s.ptr.toNat).ptr = s.ptr := rfl
    refine ⟨fun ht => hfound _ hd hl (hload _ _ hC) (by rw [hp]; omega) ht, fun _ => ?_⟩
    have hnp : (s.ptr + 1).toNat = s.ptr.toNat + 1 := by
      rw [BitVec.toNat_add]
      simp
      omega
    rw [hp]
    refine ⟨hd.setPtr (by rw [hnp]; omega), hnext _ _ (hload _ _ hC), ?_⟩
    show (s.ptr + 1).toNat + n = _
    omega
  · rfl

/-- The state in which the body of a command begins (R167). -/
theorem State.During.start {s : State} (seq : Seq) (hseq : seq.running = true)
    (htr : s.trace = []) : s.During ((s.setSeq seq).setPtr 0) where
  cfg := rfl
  inputs := rfl
  testFault := rfl
  inflight := rfl
  fault := rfl
  status := rfl
  rlen := rfl
  rdata := rfl
  resp := rfl
  running := hseq
  answers := by simp [htr]
  okSoFar := by simp [htr]
  traceRange := by simp [htr]
  memWf := id
  memBound := id
  imgLen := id
  recSized := id
  ptrRange := Nat.zero_le _

/-- The results of CFG.READ that came to its end (R164, R204, R206). -/
def ReadDone (maxLen : Byte) (s t : State) : Prop :=
  (s.record.sized s.cfg = true ∧
    t = s.finish (maxLen.setWidth 4) (readBack s.record.payloadA maxLen.toNat)) ∨
  (s.cfg.verifyOnRead = true ∧ t = s.raise .corrupt) ∨ t = s.raise .notFound

/-- What holds of the region and the CRC register inside CFG.READ (R164, R206). -/
def ReadKeeps (s₀ s : State) : Prop :=
  s.rgn = s₀.rgn ∧ (s₀.cfg.verifyOnRead = false → s.crc = s₀.crc)

/-- Everything the body of CFG.READ can do. -/
theorem readBody_Ends (n : Byte) (hl : s.cfg.legal = true) (htr : s.trace = []) :
    Ends (fun u => s.During u ∧ ReadKeeps s u) (ReadDone n)
      (fun q => ∃ i, q = Config.slotRead s.cfg i) (readBody n s) := by
  refine scan_Ends (s₀ := s) (C := ReadKeeps s) (D := ReadDone n) (Config.legal_bounds hl).2.2.2.2
    (fun i => ⟨i, rfl⟩) (fun u i h => h) (fun u p h => h) (fun u hu hul hC hp ht => ?_)
    (fun u hu hC => .inl ⟨u, ⟨hu, hC⟩, .inr (.inr rfl)⟩) _ _ (.start .rdScan rfl htr) ⟨rfl, fun _ => rfl⟩
    (Nat.zero_add _)
  unfold readFound
  cases hv : u.cfg.verifyOnRead with
  | false => exact .inl ⟨u, ⟨hu, hC⟩, .inl ⟨hul.recSized, rfl⟩⟩
  | true =>
    have hd : s.During u.recValid := hu.update rfl rfl (by simp [State.recValid, hul.record]) rfl rfl rfl rfl
      rfl rfl rfl rfl rfl hu.running hu.imgLen hu.recSized hu.ptrRange
    have hC' : ReadKeeps s u.recValid := ⟨hC.1, fun h => absurd (hu.cfg ▸ hv) (by simp [h])⟩
    cases hvv : u.validValue with
    | true => exact .inl ⟨u.recValid, ⟨hd, hC'⟩, .inl ⟨hul.recSized, rfl⟩⟩
    | false => exact .inl ⟨u.recValid, ⟨hd, hC'⟩, .inr (.inl ⟨hv, rfl⟩)⟩

/-- `ProgSlot(i)` carried to whatever follows it. -/
theorem progSlot_Ends {D : State → State → Prop} {k : State → State} {i : Nat} (h : s₀.During s) (hl : s.Loaded)
    (hi : i < s₀.cfg.recordCount)
    (hk : ∀ v, s₀.During v → v.ptr = s.ptr → Ends (fun u => s₀.During u ∧ True) D (fun _ => True) (k v)) :
    Ends (fun u => s₀.During u ∧ True) D (fun _ => True) ((progSlot i s).andThen k) := by
  have hq : (RgnRequest.prog (s.cfg.slotOff i) s.img).inRange s.cfg = true :=
    slotProg_inRange (h.cfg ▸ hi) hl.imgLen
  exact Ends.access (C := fun _ => True) h trivial trivial hq (slotProg_cnt hl.imgLen)
    (fun ha => hk _ (h.access hq ha) rfl)

theorem State.Loaded.setSeq (h : s.Loaded) (q : Seq) : (s.setSeq q).Loaded :=
  ⟨h.imgLen, h.recSized, h.img, h.record⟩

theorem State.Loaded.setPtr (h : s.Loaded) (p : BitVec 16) : (s.setPtr p).Loaded :=
  ⟨h.imgLen, h.recSized, h.img, h.record⟩

/-- CFG.WRITE at a matching slot: everything it can do. -/
theorem commit_Ends {len : Byte} {w : List Byte} {u : State} (hu : s₀.During u) (hl : u.Loaded)
    (hp : u.ptr.toNat < s₀.cfg.recordCount) :
    Ends (fun u => s₀.During u ∧ True) (fun s t => t = s.finishWrite) (fun _ => True)
      (commit len w u) :=
  have hl' := (hl.setSeq .wrCommit).updated len.toNat w
  progSlot_Ends (((hu.setSeq (q := .wrCommit) rfl).updated len.toNat w).sealed hl') hl'.sealed hp
    (fun v hv _ => .inl ⟨v, ⟨hv, trivial⟩, rfl⟩)

theorem reinitSlots_succ (n : Nat) (s : State) (k : State → State) :
    (reinitSlots (n + 1) s).andThen k = (progSlot s.ptr.toNat s.loadErased.sealed).andThen
      fun t => (reinitSlots n (t.setPtr (t.ptr + 1))).andThen k := by
  rw [reinitSlots]
  cases progSlot s.ptr.toNat s.loadErased.sealed <;> rfl

/-- The third stage of compaction, carried to whatever follows it. -/
theorem reinitSlots_Ends {D : State → State → Prop} {k : State → State} (hc : s₀.cfg.recordCount ≤ 65535)
    (hk : ∀ u, s₀.During u → Ends (fun u => s₀.During u ∧ True) D (fun _ => True) (k u)) :
    ∀ n u, s₀.During u → u.ptr.toNat + n = s₀.cfg.recordCount →
      Ends (fun u => s₀.During u ∧ True) D (fun _ => True) ((reinitSlots n u).andThen k) := by
  intro n
  induction n with
  | zero => exact fun u hu _ => hk u hu
  | succ n ih =>
    intro u hu hn
    rw [reinitSlots_succ]
    refine progSlot_Ends (hu.loadErased.sealed u.loadErased_Loaded) u.loadErased_Loaded.sealed (by omega)
      (fun v hv hp => ?_)
    have hp' : v.ptr = u.ptr := hp
    have hnp : (u.ptr + 1).toNat = u.ptr.toNat + 1 := by
      rw [BitVec.toNat_add]
      simp
      omega
    refine ih _ (hv.setPtr (by rw [hp', hnp]; omega)) ?_
    rw [hp']
    show (u.ptr + 1).toNat + n = _
    omega

/-- Compaction: everything it can do. -/
theorem compact_Ends {len : Byte} {w : List Byte} {u : State} (hl : s₀.cfg.legal = true) (hu : s₀.During u) :
    Ends (fun u => s₀.During u ∧ True) (fun s t => t = s.finishWrite) (fun _ => True)
      (compact len w u) := by
  obtain ⟨_, _, _, hc1, hc⟩ := Config.legal_bounds hl
  refine Ends.access (C := fun _ => True) (hu.setSeq (q := .cpErase) rfl) trivial trivial (eraseAll_inRange _)
    (eraseAll_cnt (hu.cfg ▸ hl)) (fun ha => ?_)
  have hdt := (hu.setSeq (q := .cpErase) rfl).access (q := .erase 0 u.cfg.regionSize) (eraseAll_inRange _) ha
  revert hdt
  generalize State.setRgn _ _ = t
  intro hdt
  have hlo := (t.setSeq .cpSlot0).loadErased_Loaded.updated len.toNat w
  refine progSlot_Ends ((((hdt.setSeq (q := .cpSlot0) rfl).loadErased.updated len.toNat w).sealed hlo).setPtr
    (p := 0) (Nat.zero_le _)) (hlo.sealed.setPtr 0) (by omega) (fun v hdv _ => ?_)
  refine reinitSlots_Ends (D := fun s t => t = s.finishWrite) (k := fun v => (v.setPtr 0).finishWrite) hc (fun x hx => .inl ⟨x.setPtr 0, ⟨hx.setPtr (Nat.zero_le _), trivial⟩, rfl⟩) _ _
    ((hdv.setSeq (q := .cpReinit) rfl).setPtr (p := 1) (by simpa using hc1)) ?_
  show 1 + (v.cfg.recordCount - 1) = _
  rw [hdv.cfg]; omega

/-- Everything the body of CFG.WRITE can do. -/
theorem writeBody_Ends (len : Byte) (w : List Byte) (hl : s.cfg.legal = true) (htr : s.trace = []) :
    Ends s.During (fun s t => t = s.finishWrite) (fun _ => True) (writeBody len w s) :=
  Ends.mono (scan_Ends (s₀ := s) (C := fun _ => True) (D := fun s t => t = s.finishWrite)
    (Config.legal_bounds hl).2.2.2.2 (fun _ => trivial) (fun _ _ h => h) (fun _ _ h => h)
    (fun _ hu hul _ hp _ => commit_Ends hu hul hp) (fun _ hu _ => compact_Ends hl hu) _ _
    (.start .wrScan rfl htr) trivial (Nat.zero_add _)) (fun _ h => h.1)

/-! ### The prologue -/

theorem State.ready.busy (h : s.ready) : s.busy = false := by
  simp [State.busy, h.1, Seq.running, h.2]

/-- A store request presented while the machine is busy is not accepted (R160). -/
theorem storeCommand_busy {bufp : Bool} {arg : Byte} {body : State → State} (h : s.busy = true) :
    storeCommand bufp arg body s = s := by
  simp [storeCommand, h]

/-- The state a store request's prologue hands on: an empty trace (R179). -/
def State.accepted (s : State) : State := { s with trace := [] }

/-- In FAULT a store request is answered HardwareFault (R207). -/
theorem storeCommand_fault {bufp : Bool} {arg : Byte} {body : State → State} (hb : s.busy = false)
    (hf : s.seq = .fault) : storeCommand bufp arg body s = s.accepted.respondEmpty .hardwareFault := by
  simp [storeCommand, hb, hf, State.accepted]

/-- A bad length or an absent buffer is answered InvalidLength (R167 step 3, R202). -/
theorem storeCommand_badLength {bufp : Bool} {arg : Byte} {body : State → State} (hr : s.ready)
    (h : badLength bufp arg = true) : storeCommand bufp arg body s = s.accepted.raise .invalidLength := by
  simp [storeCommand, hr.busy, hr.1, h, State.accepted]

/-- Past its prologue a command runs its body (R167). -/
theorem storeCommand_body {bufp : Bool} {arg : Byte} {body : State → State} (hr : s.ready)
    (h : badLength bufp arg = false) : storeCommand bufp arg body s = body s.accepted := by
  simp [storeCommand, hr.busy, hr.1, h, State.accepted]

/-- The four outcomes of a store command's prologue. -/
theorem storeCommand_cases (bufp : Bool) (arg : Byte) (body : State → State) (s : State) :
    (s.busy = true ∧ storeCommand bufp arg body s = s) ∨
    (s.busy = false ∧ s.seq = .fault ∧
      storeCommand bufp arg body s = s.accepted.respondEmpty .hardwareFault) ∨
    (s.ready ∧ badLength bufp arg = true ∧
      storeCommand bufp arg body s = s.accepted.raise .invalidLength) ∨
    (s.ready ∧ badLength bufp arg = false ∧ storeCommand bufp arg body s = body s.accepted) := by
  cases hb : s.busy with
  | true => exact .inl ⟨rfl, storeCommand_busy hb⟩
  | false =>
    by_cases hf : s.seq = .fault
    · exact .inr (.inl ⟨rfl, hf, storeCommand_fault hb hf⟩)
    · have hr : s.ready := by
        have : s.seq.running = false ∧ s.inflight = none := by
          simpa [State.busy] using hb
        refine ⟨?_, this.2⟩
        revert hf
        have h1 := this.1
        revert h1
        cases s.seq <;> simp [Seq.running]
      cases h : badLength bufp arg with
      | true => exact .inr (.inr (.inl ⟨hr, rfl, storeCommand_badLength hr h⟩))
      | false => exact .inr (.inr (.inr ⟨hr, rfl, storeCommand_body hr h⟩))

theorem badLength_false {n : Byte} (h : n.toNat ≤ 8) : badLength true n = false := by
  simp [badLength, h]

theorem badLength_iff {bufp : Bool} {n : Byte} :
    badLength bufp n = false ↔ bufp = true ∧ n.toNat ≤ 8 := by
  simp [badLength]

end Sys2Proof.Machine
end

