-- ==== Sys2Proof/Laws/Crc.lean ====
section
/-! SUPPORT. The update step's iterations are linear over exclusive-or and one to one (spec 41_crc.md R120). -/

namespace Sys2Proof.Machine

theorem crcBit_eq (c : Word) : crcBit c = (c >>> 1) ^^^ (if c.getLsbD 0 then crcPoly else 0) := by
  unfold crcBit
  split <;> simp

theorem crcBit_xor (a b : Word) : crcBit (a ^^^ b) = crcBit a ^^^ crcBit b := by
  simp only [crcBit_eq, BitVec.getLsbD_xor, BitVec.ushiftRight_xor_distrib]
  cases a.getLsbD 0 <;> cases b.getLsbD 0 <;> simp
  · rw [BitVec.xor_assoc]
  · rw [BitVec.xor_assoc, BitVec.xor_assoc, BitVec.xor_comm _ crcPoly]
  · refine BitVec.eq_of_getLsbD_eq fun i _ => ?_
    simp only [BitVec.getLsbD_xor]
    cases BitVec.getLsbD _ i <;> cases BitVec.getLsbD _ i <;> cases BitVec.getLsbD _ i <;> rfl

/-- The iterations are linear. -/
theorem crcBits_xor (n : Nat) (a b : Word) : crcBits n (a ^^^ b) = crcBits n a ^^^ crcBits n b := by
  induction n generalizing a b with
  | zero => rfl
  | succ n ih => simp only [crcBits, crcBit_xor, ih]

/-- While the low bits are zero an iteration only shifts. -/
theorem crcBits_shift (n : Nat) (c : Word) (h : ∀ i < n, c.getLsbD i = false) : crcBits n c = c >>> n := by
  induction n generalizing c with
  | zero => simp [crcBits]
  | succ n ih =>
    have h0 : crcBit c = c >>> 1 := by
      unfold crcBit
      rw [h 0 (by omega)]
      rfl
    rw [crcBits, h0, ih _ fun i hi => by rw [BitVec.getLsbD_ushiftRight]; exact h _ (by omega),
      ← BitVec.shiftRight_add, Nat.add_comm]

theorem crcBit_zero {c : Word} (h : crcBit c = 0) : c = 0 := by
  rw [crcBit_eq] at h
  cases h0 : c.getLsbD 0 with
  | true =>
    have := congrArg (fun v : Word => v.getLsbD 31) h
    rw [h0] at this
    simp [crcPoly] at this
  | false =>
    rw [h0] at h
    refine BitVec.eq_of_getLsbD_eq fun i hi => ?_
    cases i with
    | zero => simpa using h0
    | succ i =>
      have := congrArg (fun v : Word => v.getLsbD i) h
      simp at this
      simpa [Nat.add_comm] using this

/-- The iterations lose nothing. -/
theorem crcBits_inj {n : Nat} {a b : Word} (h : crcBits n a = crcBits n b) : a = b := by
  have hz : ∀ (n : Nat) (c : Word), crcBits n c = 0 → c = 0 := by
    intro n
    induction n with
    | zero => exact fun c h => h
    | succ n ih => exact fun c h => crcBit_zero (ih _ h)
  have hx : ∀ a b : Word, a ^^^ b = 0 ↔ a = b := fun a b => by simp
  rw [← hx, ← crcBits_xor] at h
  exact (hx a b).1 (hz n _ h)

end Sys2Proof.Machine
end

