-- ==== Sys2Proof/Laws/PerInstr.lean ====
section
/-! SUPPORT. The families of statements made constructor by constructor. -/

namespace Sys2Proof.Laws

/-! ### EncodedOnOwnRow: an instruction's request stands on its own port and its header is a word of its own
row of the selector map, with the must-be-zero field zero (spec 30_encoding.md R82, R87, R95) -/

/-- What `EncodedOnOwnRow` says of one instruction. -/
def EncodedOnOwnRow.Statement (i : Instr) : Prop :=
  (encode i).port = i.op.port ∧ i.op.selects (encode i).hdr = true ∧ Header.z (encode i).hdr = 0

theorem EncodedOnOwnRow.crcInit : EncodedOnOwnRow.Statement .crcInit := by
  unfold EncodedOnOwnRow.Statement; decide

theorem EncodedOnOwnRow.crcByte (b : Byte) : EncodedOnOwnRow.Statement (.crcByte b) := by
  unfold EncodedOnOwnRow.Statement; revert b; decide

theorem EncodedOnOwnRow.crcFinal : EncodedOnOwnRow.Statement .crcFinal := by
  unfold EncodedOnOwnRow.Statement; decide

theorem EncodedOnOwnRow.recEnc : EncodedOnOwnRow.Statement .recEnc := by
  unfold EncodedOnOwnRow.Statement; decide

theorem EncodedOnOwnRow.recDec : EncodedOnOwnRow.Statement .recDec := by
  unfold EncodedOnOwnRow.Statement; decide

theorem EncodedOnOwnRow.recCsum : EncodedOnOwnRow.Statement .recCsum := by
  unfold EncodedOnOwnRow.Statement; decide

theorem EncodedOnOwnRow.recValid : EncodedOnOwnRow.Statement .recValid := by
  unfold EncodedOnOwnRow.Statement; decide

theorem EncodedOnOwnRow.rgnRead (off cnt : Word) : EncodedOnOwnRow.Statement (.rgnRead off cnt) :=
  ⟨rfl, show Op.selects .rgnRead (Op.pattern .rgnRead) = true by decide,
    show Header.z (Op.pattern .rgnRead) = 0 by decide⟩

theorem EncodedOnOwnRow.rgnProg (off : Word) (wdata : List Byte) :
    EncodedOnOwnRow.Statement (.rgnProg off wdata) :=
  ⟨rfl, show Op.selects .rgnProg (Op.pattern .rgnProg) = true by decide,
    show Header.z (Op.pattern .rgnProg) = 0 by decide⟩

theorem EncodedOnOwnRow.rgnErase (off cnt : Word) : EncodedOnOwnRow.Statement (.rgnErase off cnt) :=
  ⟨rfl, show Op.selects .rgnErase (Op.pattern .rgnErase) = true by decide,
    show Header.z (Op.pattern .rgnErase) = 0 by decide⟩

theorem EncodedOnOwnRow.cfgRead (bufp : Bool) (maxLen : Byte) :
    EncodedOnOwnRow.Statement (.cfgRead bufp maxLen) := by
  unfold EncodedOnOwnRow.Statement; revert bufp maxLen; decide

theorem EncodedOnOwnRow.cfgWrite (bufp : Bool) (len : Byte) (wdata : List Byte) :
    EncodedOnOwnRow.Statement (.cfgWrite bufp len wdata) := by
  have h : ∀ (bufp : Bool) (len : Byte), Op.selects .cfgWrite (formatL .cfgWrite bufp len) = true ∧
      Header.z (formatL .cfgWrite bufp len) = 0 := by decide
  exact ⟨rfl, h bufp len⟩

end Sys2Proof.Laws
end

