-- ==== Sys2Proof/Laws/Step.lean ====
section
/-! SUPPORT. What a step finds to do and what a request can be answered (spec 43_block_store.md R160,
70_reset_and_hazards.md R230, R241, 30_encoding.md R90). -/

namespace Sys2Proof.Machine

theorem State.pending_busy {s : State} (h : s.busy = true) :
    (∃ draw rest, firstReset s.inputs = some (draw, rest) ∧ s.pending = .reset draw rest) ∨
    (firstReset s.inputs = none ∧ s.inflight.isSome = true ∧ s.pending = .wait) ∨
    (firstReset s.inputs = none ∧ s.inflight = none ∧ s.pending = .lost) := by
  unfold State.pending State.pendingBusy
  rw [h]
  cases firstReset s.inputs with
  | some p => exact .inl ⟨p.1, p.2, rfl, rfl⟩
  | none => cases s.inflight <;> simp

theorem State.pending_idle {s : State} (h : s.busy = false) :
    (s.inputs = [] ∧ s.pending = .wait) ∨
    (∃ draw rest, s.inputs = .reset draw :: rest ∧ s.pending = .reset draw rest) ∨
    (∃ q rest, s.inputs = .platform q :: rest ∧ s.pending = .platform q rest) ∨
    (∃ r rest, s.inputs = .request r :: rest ∧ s.pending = .request r rest) := by
  unfold State.pending State.pendingIdle
  rw [h]
  cases s.inputs with
  | nil => simp
  | cons a l => cases a <;> simp

/-- The region port alone refuses the length of a side band (R81). -/
theorem decode_wdataLength_port {r : Request} (h : decode r = .error .wdataLength) : r.port = .region := by
  unfold decode at h
  split at h
  · simp [headerError] at h
    split at h <;> cases h
  · rename_i op _
    split at h
    · rename_i hp
      cases op <;> simp [operands] at h
      exact hp.symm
    · cases h

/-- Every meaning answers a next state. -/
theorem exec_next (i : Instr) (s : State) : ∃ t, exec i s = .next t := by
  cases i <;> exact ⟨_, rfl⟩

/-- A request an idle machine takes is performed on the state without it. -/
theorem step_request {s : State} {r : Request} {rest : List Input} (hl : s.cfg.legal = true)
    (hb : s.busy = false) (hi : s.inputs = .request r :: rest) : step s = perform r (s.withInputs rest) := by
  simp [step, hl, State.pending, hb, State.pendingIdle, hi]

/-- A step without a request never refuses: it waits, resets, lets the platform move, or has lost the
sequencer. -/
theorem step_cases (s : State) :
    (s.cfg.legal = false ∧ step s = .refused .illegalConfiguration) ∨
    (s.cfg.legal = true ∧
      ((s.pending = .wait ∧ step s = .next s) ∨
        (∃ draw rest, s.pending = .reset draw rest ∧ step s = .next ((s.withInputs rest).resetBy draw)) ∨
        (∃ q rest, s.pending = .platform q rest ∧ step s = .next ((s.withInputs rest).platformAccess q)) ∨
        (∃ r rest, s.pending = .request r rest ∧ step s = perform r (s.withInputs rest)) ∨
        (s.pending = .lost ∧ step s = .fault .lostSequencer))) := by
  unfold step
  cases s.cfg.legal with
  | false => simp
  | true => cases s.pending <;> simp

end Sys2Proof.Machine
end

