-- ==== Sys2Proof/Laws/Trace.lean ====
section
/-! SUPPORT. What the requests of a store command have done when one of them cuts the command off, and which
answers a command that came to its end has had (spec 43_block_store.md R179, 60_exceptions.md R201, R203,
70_reset_and_hazards.md R237, R241). -/

namespace Sys2Proof.Machine

/-- `u` is a state of a command that began in `s` and whose requests `done` have all succeeded. -/
structure State.After (s u : State) (done : List RgnRequest) : Prop where
  cfg : u.cfg = s.cfg
  trace : u.trace = done
  answers : u.answers = s.answers.drop done.length
  rgn : u.rgn = done.foldl (fun m p => RgnRequest.apply p m) s.rgn
  inflight : u.inflight = none
  fault : u.fault = s.fault
  status : u.status = s.status
  rlen : u.rlen = s.rlen
  rdata : u.rdata = s.rdata
  wf : s.rgn.wf → u.rgn.wf
  okSoFar : s.okFor done.length

/-- `t` is what remains of a command that began in `s` when its request `q`, made in `u` after the requests
`done`, failed or was not answered. -/
structure State.CutOff (s u t : State) (done : List RgnRequest) (q : RgnRequest) : Prop where
  trace : t.trace = done ++ [q]
  okSoFar : s.okFor done.length
  ptr : t.ptr = u.ptr
  crc : t.crc = u.crc
  record : t.record = u.record
  img : t.img = u.img
  outcome : (∃ draw, s.answers[done.length]? = some (.fail draw) ∧ t.rgn = q.applyPartial draw u.rgn ∧
      t.seq = .fault ∧ t.fault = true ∧ t.inflight = none ∧ t.status = .hardwareFault ∧
      t.resp = some (.store .hardwareFault 0 (rep 0x00 8))) ∨
    (s.answers[done.length]? = some .never ∧ t.rgn = u.rgn ∧ t.seq = u.seq ∧ t.inflight = some q ∧
      t.resp = none ∧ t.fault = s.fault ∧ t.status = s.status ∧ t.rlen = s.rlen ∧ t.rdata = s.rdata)

theorem State.CutOff.seq {s u t : State} {done : List RgnRequest} {q : RgnRequest} (h : s.CutOff u t done q) :
    t.seq = .fault ∨ t.seq = u.seq := by
  rcases h.outcome with ⟨_, _, _, h, _⟩ | ⟨_, _, h, _⟩
  · exact .inl h
  · exact .inr h

/-- The answer a request finds is the one after those of the requests before it (R104). -/
theorem State.nextAnswer_eq {s u : State} {k : Nat} (h : u.answers = s.answers.drop k) :
    u.nextAnswer = s.answers.getD k .ok := by
  rw [State.nextAnswer, h, List.headD_eq_head?_getD, List.head?_drop, List.getD_eq_getElem?_getD]

theorem getElem?_of_getD {l : List Answer} {k : Nat} {a : Answer} (h : l.getD k .ok = a) (hne : a ≠ .ok) :
    l[k]? = some a := by
  rw [List.getD_eq_getElem?_getD] at h
  cases hg : l[k]? with
  | none => rw [hg] at h; exact absurd h.symm hne
  | some b => rw [hg] at h; simpa using h

theorem State.okFor.succ {s : State} {k : Nat} (h : s.okFor k) (hk : s.answers.getD k .ok = .ok) :
    s.okFor (k + 1) := fun j hj => by
  by_cases hjk : j < k
  · exact h j hjk
  · obtain rfl : j = k := by omega
    exact hk

/-- Updates of the working registers keep `After`. -/
theorem State.After.update {s u v : State} {done : List RgnRequest} (h : s.After u done) (hc : v.cfg = u.cfg)
    (ht : v.trace = u.trace) (ha : v.answers = u.answers) (hr : v.rgn = u.rgn) (hi : v.inflight = u.inflight)
    (hf : v.fault = u.fault) (hs : v.status = u.status) (hl : v.rlen = u.rlen) (hd : v.rdata = u.rdata) :
    s.After v done where
  cfg := hc.trans h.cfg
  trace := ht.trans h.trace
  answers := ha.trans h.answers
  rgn := hr.trans h.rgn
  inflight := hi.trans h.inflight
  fault := hf.trans h.fault
  status := hs.trans h.status
  rlen := hl.trans h.rlen
  rdata := hd.trans h.rdata
  wf := by rw [hr]; exact h.wf
  okSoFar := h.okSoFar

/-- A request that succeeds takes its place among those before it. -/
theorem State.After.succeeded {s u : State} {done : List RgnRequest} {q : RgnRequest} (h : s.After u done)
    (ha : u.nextAnswer = .ok) :
    s.After ((u.traced q).popAnswer.setRgn (q.apply u.rgn)) (done ++ [q]) where
  cfg := by simp [h.cfg]
  trace := by simp [h.trace]
  answers := by simp [h.answers, List.tail_drop]
  rgn := by simp [h.rgn]
  inflight := by simp [h.inflight]
  fault := by simp [h.fault]
  status := by simp [h.status]
  rlen := by simp [h.rlen]
  rdata := by simp [h.rdata]
  wf hw := q.apply_wf (h.wf hw)
  okSoFar := by
    rw [List.length_append]
    exact h.okSoFar.succ ((State.nextAnswer_eq h.answers).symm.trans ha)

/-- A request that fails cuts the command off with HardwareFault (R203). -/
theorem State.After.failed {s u : State} {done : List RgnRequest} {q : RgnRequest} {draw : Nat}
    (h : s.After u done) (ha : u.nextAnswer = .fail draw) :
    s.CutOff u (((u.traced q).popAnswer.setRgn (q.applyPartial draw u.rgn)).raise .hardwareFault) done q where
  trace := by simp [h.trace]
  okSoFar := h.okSoFar
  ptr := by simp
  crc := by simp
  record := by simp
  img := by simp
  outcome := .inl ⟨draw, getElem?_of_getD ((State.nextAnswer_eq h.answers).symm.trans ha) nofun,
    by simp, by simp, by simp, by simp [h.inflight], by simp, by simp⟩

/-- A request that is never answered leaves the command waiting (R241). -/
theorem State.After.unanswered {s u : State} {done : List RgnRequest} {q : RgnRequest} (h : s.After u done)
    (ha : u.nextAnswer = .never) : s.CutOff u ((u.traced q).popAnswer.await q) done q where
  trace := by simp [h.trace]
  okSoFar := h.okSoFar
  ptr := by simp
  crc := by simp
  record := by simp
  img := by simp
  outcome := .inr ⟨getElem?_of_getD ((State.nextAnswer_eq h.answers).symm.trans ha) nofun,
    by simp, by simp, by simp, by simp, by simp [h.fault], by simp [h.status], by simp [h.rlen],
    by simp [h.rdata]⟩

/-- One request of a command: it succeeds and the command goes on, or it cuts the command off. -/
theorem storeAccess_after {s u : State} {done : List RgnRequest} {q : RgnRequest}
    {k : List Byte → State → State} {k' : State → State} {Q : State → Prop} (h : s.After u done)
    (hq : q.inRange u.cfg = true) (hn : q.cnt ≠ 0)
    (hok : s.After ((u.traced q).popAnswer.setRgn (q.apply u.rgn)) (done ++ [q]) →
      Q (k' (k (q.data u.rgn) ((u.traced q).popAnswer.setRgn (q.apply u.rgn)))))
    (hcut : ∀ t, s.CutOff u t done q → Q t) : Q ((storeAccess q u k).andThen k') :=
  Flow.holds_andThen (storeAccess_holds hq hn (fun ha => hok (h.succeeded ha))
    (fun _ ha => hcut _ (h.failed ha)) (fun ha => hcut _ (h.unanswered ha)))

/-- `ProgSlot(i)` of a command (R162). -/
theorem progSlot_after {s u : State} {done : List RgnRequest} {i : Nat} {k : State → State} {Q : State → Prop}
    (h : s.After u done) (hi : i < s.cfg.recordCount) (hl : u.img.length = s.cfg.recordSize)
    (hok : s.After (u.programmed i) (done ++ [.prog (s.cfg.slotOff i) u.img]) → Q (k (u.programmed i)))
    (hcut : ∀ t, s.CutOff u t done (.prog (s.cfg.slotOff i) u.img) → Q t) :
    Q ((progSlot i u).andThen k) := by
  rw [← h.cfg] at hok hcut hi hl
  exact storeAccess_after h (slotProg_inRange hi hl) (slotProg_cnt hl) hok hcut

/-! ### Scans -/

/-- The reads of the first `k` slots (R179). -/
def slotReads (c : Config) (k : Nat) : List RgnRequest := (List.range k).map (Config.slotRead c)

@[simp] theorem length_slotReads (c : Config) (k : Nat) : (slotReads c k).length = k := by
  simp [slotReads]

theorem slotReads_succ (c : Config) (k : Nat) :
    slotReads c (k + 1) = slotReads c k ++ [Config.slotRead c k] := by
  simp [slotReads, List.range_succ]

theorem slotReads_scanTrace (c : Config) (k : Nat) : slotReads c (k + 1) = scanTrace c k := rfl

/-- Reads of slots change nothing (R161, R61). -/
theorem foldl_slotReads (c : Config) (k : Nat) (m : Memory) :
    (slotReads c k).foldl (fun m p => RgnRequest.apply p m) m = m := by
  induction k with
  | zero => rfl
  | succ k ih => rw [slotReads_succ, List.foldl_append, ih]; rfl

/-- `img` and `rec` after the first `k` slots have been loaded: those of the last one, or as they were. -/
def State.LoadedTo (s u : State) (k : Nat) : Prop :=
  k = 0 ∧ u.img = s.img ∧ u.record = s.record ∨
    ∃ i, k = i + 1 ∧ u.img = s.slotImg i ∧ u.record = s.slotRec i

/-- A state of a scan that has loaded `k` slots and points at slot `p` (R172). -/
structure State.Scanning (s u : State) (q : Seq) (p k : Nat) : Prop where
  after : s.After u (slotReads s.cfg k)
  ptr : u.ptr = BitVec.ofNat 16 p
  crc : u.crc = s.crc
  seq : u.seq = q
  rgn : u.rgn = s.rgn
  loaded : s.LoadedTo u k

/-- Everything a scan can do: a read cuts it off, it finds a slot, or it passes the last one. -/
theorem scan_after {s : State} {test : Record → Bool} {found exhausted : State → State} {Q : State → Prop}
    {q : Seq} (hc : s.cfg.recordCount ≤ 65535)
    (hcut : ∀ i u t, i < s.cfg.recordCount → (∀ j < i, test (s.slotRec j) = false) → s.Scanning u q i i →
      s.CutOff u t (slotReads s.cfg i) (Config.slotRead s.cfg i) → Q t)
    (hfound : ∀ m u, s.firstSlot test m → s.Scanning u q m (m + 1) → u.written.record = true → Q (found u))
    (hex : ∀ u, s.noSlot test → s.Scanning u q s.cfg.recordCount s.cfg.recordCount → Q (exhausted u)) :
    ∀ n u p, s.Scanning u q p p → p + n = s.cfg.recordCount → (∀ j < p, test (s.slotRec j) = false) →
      Q (scan test found exhausted n u) := by
  intro n
  induction n with
  | zero =>
    intro u p h hn hb
    obtain rfl : p = s.cfg.recordCount := by omega
    exact hex u hb h
  | succ n ih =>
    intro u p h hn hb
    have hcfg := h.after.cfg
    have hpc : p < u.cfg.recordCount := by rw [hcfg]; omega
    unfold scan loadSlot
    rw [h.ptr, ptr_toNat (by omega)]
    refine storeAccess_after h.after (q := Config.slotRead u.cfg p) (slotRead_inRange hpc) (slotRead_cnt _ _)
      (fun hv => ?_) (fun t ht => hcut p u t (by omega) hb h (by rw [hcfg] at ht; exact ht))
    have hreads : slotReads s.cfg p ++ [Config.slotRead u.cfg p] = slotReads s.cfg (p + 1) := by
      rw [hcfg, slotReads_succ]
    rw [hreads] at hv
    have himg : (Config.slotRead u.cfg p).data u.rgn = s.slotImg p := by
      rw [hcfg, h.rgn]
      rfl
    have hptr : ((u.traced (Config.slotRead u.cfg p)).popAnswer.setRgn
        ((Config.slotRead u.cfg p).apply u.rgn)).ptr = BitVec.ofNat 16 p := h.ptr
    have hcrc : ((u.traced (Config.slotRead u.cfg p)).popAnswer.setRgn
        ((Config.slotRead u.cfg p).apply u.rgn)).crc = s.crc := h.crc
    have hseq : ((u.traced (Config.slotRead u.cfg p)).popAnswer.setRgn
        ((Config.slotRead u.cfg p).apply u.rgn)).seq = q := h.seq
    have hrgn : ((u.traced (Config.slotRead u.cfg p)).popAnswer.setRgn
        ((Config.slotRead u.cfg p).apply u.rgn)).rgn = s.rgn := h.rgn
    rw [himg]
    revert hv hptr hcrc hseq hrgn
    generalize (u.traced (Config.slotRead u.cfg p)).popAnswer.setRgn ((Config.slotRead u.cfg p).apply u.rgn) = v
    intro hv hptr hcrc hseq hrgn
    have hrec : (v.setImg (s.slotImg p)).recDec.record = s.slotRec p := by
      show decodeRecord v.cfg (s.slotImg p) = _
      rw [hv.cfg]
      rfl
    have hl : s.After (v.setImg (s.slotImg p)).recDec (slotReads s.cfg (p + 1)) :=
      hv.update rfl rfl rfl rfl rfl rfl rfl rfl rfl
    have hload : s.LoadedTo (v.setImg (s.slotImg p)).recDec (p + 1) := .inr ⟨p, rfl, rfl, hrec⟩
    rw [hrec]
    cases ht : test (s.slotRec p) with
    | true => exact hfound p _ ⟨by omega, ht, hb⟩ ⟨hl, hptr, hcrc, hseq, hrgn, hload⟩ rfl
    | false =>
      refine ih _ (p + 1) ⟨hl.update rfl rfl rfl rfl rfl rfl rfl rfl rfl, ?_, hcrc, hseq, hrgn, ?_⟩ (by omega)
        (fun j hj => ?_)
      · show v.ptr + 1 = _
        rw [hptr, ptr_succ]
      · exact hload
      · by_cases hjp : j < p
        · exact hb j hjp
        · obtain rfl : j = p := by omega
          exact ht

/-- The state in which a command's scan begins (R164, R169). -/
theorem State.Scanning.start {s : State} (h : s.ready) (q : Seq) : s.Scanning (s.begun q) q 0 0 where
  after := ⟨rfl, rfl, rfl, rfl, h.2, rfl, rfl, rfl, rfl, id, fun _ hj => absurd hj (Nat.not_lt_zero _)⟩
  ptr := rfl
  crc := rfl
  seq := rfl
  rgn := rfl
  loaded := .inl ⟨rfl, rfl, rfl⟩

end Sys2Proof.Machine
end

