-- ==== Sys2Proof/Tests/Slice0.lean ====
section
/-! SUPPORT. Tests: the well-formedness checks, words written out from the encodings of spec 30_encoding.md,
single steps with results from spec 95_test_vectors.md, and for every obligation with hypotheses a concrete
state and operands that meet them. -/

namespace Sys2Proof.Tests

-- The tests wait for one another's kernel check, each in a thread of its own: in order they need one.
set_option Elab.async false

open Sys2Proof Sys2Proof.Machine

/-! ### Well-formedness -/

theorem test_wellFormed_accepts :
    (Instr.rgnProg 0 []).wellFormed = true ∧ (Instr.cfgWrite true 9 (rep 0 8)).wellFormed = true := by decide

/-- R81: `cnt` is a `u32`. -/
theorem test_wellFormed_rejects_longProg : (Instr.rgnProg 0 (rep 0 (2 ^ 32))).wellFormed = false := by
  rw [Instr.wellFormed, rep, List.length_replicate]
  exact decide_eq_false (Nat.lt_irrefl _)

/-- R81: the side band of CFG.WRITE has exactly eight bytes. -/
theorem test_wellFormed_rejects_sideBand :
    (Instr.cfgWrite true 3 (rep 0 7)).wellFormed = false ∧
      (Instr.cfgWrite true 3 (rep 0 9)).wellFormed = false := by decide

/-! ### Decoding: a header written bit by bit for each row of R87 -/

/-- A request on a port. -/
def req (p : Port) (h : Header) (off cnt : Word) (wdata : List Byte) : Request :=
  { port := p, hdr := h, off := off, cnt := cnt, wdata := wdata }

/-- The decoder accepts, with this instruction. -/
def accepts (r : Request) (i : Instr) : Bool :=
  match decode r with
  | .ok j => i == j
  | .error _ => false

/-- The decoder rejects, under this name. -/
def rejects (r : Request) (e : DecodeError) : Bool :=
  match decode r with
  | .ok _ => false
  | .error f => e == f

theorem test_decode_crcInit : accepts (req .crc 0b0001000000000000 0 0 []) .crcInit = true := by decide
theorem test_decode_crcByte : accepts (req .crc 0b0010000010100101 0 0 []) (.crcByte 0xA5) = true := by decide
theorem test_decode_crcFinal : accepts (req .crc 0b0011000000000000 0 0 []) .crcFinal = true := by decide
theorem test_decode_recEnc : accepts (req .codec 0b0100000000000000 0 0 []) .recEnc = true := by decide
theorem test_decode_recDec : accepts (req .codec 0b0101000000000000 0 0 []) .recDec = true := by decide
theorem test_decode_recCsum : accepts (req .codec 0b0110000000000000 0 0 []) .recCsum = true := by decide
theorem test_decode_recValid : accepts (req .codec 0b0111000000000000 0 0 []) .recValid = true := by decide
theorem test_decode_rgnRead :
    accepts (req .region 0b1000000000000000 4092 4 []) (.rgnRead 4092 4) = true := by decide
theorem test_decode_rgnProg :
    accepts (req .region 0b1001000000000000 8 2 [0xAA, 0xBB]) (.rgnProg 8 [0xAA, 0xBB]) = true := by decide
theorem test_decode_rgnErase :
    accepts (req .region 0b1010000000000000 0 4096 []) (.rgnErase 0 4096) = true := by decide
theorem test_decode_cfgRead :
    accepts (req .store 0b1100000100000011 0 0 []) (.cfgRead true 3) = true ∧
      accepts (req .store 0b1100000011111111 0 0 []) (.cfgRead false 255) = true := by decide
theorem test_decode_cfgWrite :
    accepts (req .store 0b1101000100000010 0 0 [0x78, 0x79]) (.cfgWrite true 2 [0x78, 0x79, 0, 0, 0, 0, 0, 0]) = true ∧
      accepts (req .store 0b1101000000001000 0 0 (rep 1 9)) (.cfgWrite false 8 (rep 1 8)) = true := by decide

/-- R90: reserved selectors, must-be-zero fields, another port's selectors (V-ERR-6, V-ERR-7), and the side
band of RGN.PROG (R81). -/
theorem test_decode_rejects :
    rejects (req .store 0x0000 0 0 []) .reservedSelector = true ∧
      rejects (req .store 0xB000 0 0 []) .reservedSelector = true ∧
      rejects (req .store 0xE000 0 0 []) .reservedSelector = true ∧
      rejects (req .store 0xF123 0 0 []) .reservedSelector = true ∧
      rejects (req .store 0xC208 0 0 []) .nonzeroField = true ∧
      rejects (req .store 0xDF08 0 0 []) .nonzeroField = true ∧
      rejects (req .crc 0x1001 0 0 []) .nonzeroField = true ∧
      rejects (req .store 0x2031 0 0 []) .wrongPort = true ∧
      rejects (req .region 0x9000 0 2 [0xAA]) .wdataLength = true := by decide

/-- R93: the textual form. -/
theorem test_text :
    Instr.text (.cfgWrite true 2 [0x78, 0x79]) = "cfg.write 2, " ++ String.ofList
      [Char.ofNat 123, '7', '8', ' ', '7', '9', Char.ofNat 125] ∧
      Instr.text (.cfgRead false 8) = "cfg.read 8, nobuf" ∧
      expandWriteConfig [0x78, 0x79] = .cfgWrite true 2 [0x78, 0x79, 0, 0, 0, 0, 0, 0] := by decide +kernel

/-- R26, R28: the codes. -/
theorem test_codes :
    [Seq.idle, .rdScan, .wrScan, .wrCommit, .cpErase, .cpSlot0, .cpReinit, .fault].map Seq.code =
      [0, 1, 2, 3, 4, 5, 6, 7] ∧
    [Kind.ok, .invalidLength, .notFound, .hardwareFault, .corrupt, .illegalRequest].map Kind.code =
      [0, 1, 2, 3, 4, 5] := by decide

/-! ### Small states -/

/-- Two slots of 24 bytes and a tail of 3. -/
def tiny (e : Endian) (verify : Bool) : Config :=
  { baseOffset := 0x1000, regionSize := 51, reservedLen := 0, endian := e, verifyOnRead := verify }

/-- The state after reset of an instance with this region. -/
def start (c : Config) (m : Memory) : State :=
  { State.reset with
    cfg := c, rgn := m, record := c.erasedRecord, img := c.erasedImg, ptr := BitVec.ofNat 16 c.recordCount }

/-- `"ABCDEFGH"`. -/
def letters : List Byte := [0x41, 0x42, 0x43, 0x44, 0x45, 0x46, 0x47, 0x48]

/-- The image of V-REC-4. -/
def image4 : List Byte := [0, 0, 0, 0] ++ letters ++ rep 0xFF 8 ++ [0xE2, 0xB1, 0x25, 0x66]

/-- The record of V-REC-1. -/
def record1 (checksum : Word) : Record :=
  { blockId := 0x12345678, payloadA := letters, payloadB := [1, 2, 3, 4, 5, 6, 7, 8]
    reserved := [], checksum := checksum }

/-- The image of V-REC-1. -/
def image1 : List Byte :=
  [0x78, 0x56, 0x34, 0x12] ++ letters ++ [1, 2, 3, 4, 5, 6, 7, 8] ++ [0x14, 0x8D, 0x04, 0x52]

/-- A fresh part. -/
def fresh : State := start (tiny .little false) []

/-- Slot 0 as V-ST-9 leaves it. -/
def afterWrite : State := start (tiny .little false) (Memory.program [] 0 image4)

/-- Both slots hold an unnamed `block_id`. -/
def exhausted : State :=
  start (tiny .little false) (Memory.program (Memory.program [] 0 [1, 0, 0, 0]) 24 [1, 0, 0, 0])

/-- Slot 0 holds an unnamed `block_id`, slot 1 is erased (V-ST-13). -/
def irregular : State := start (tiny .little false) (Memory.program [] 0 [0xFF, 0xFF, 0, 0])

/-- Slot 1 alone is occupied (V-ST-12). -/
def laterSlot : State := start (tiny .little false) (Memory.program [] 24 ([0x78, 0x56, 0x34, 0x12] ++ letters))

/-- A command of a fresh part waits for its first read. -/
def waiting : State :=
  { fresh with seq := .rdScan, ptr := 0, inflight := some (.read 0 24), trace := [.read 0 24] }

/-- A program of slot 0's first bytes is in flight. -/
def programming : State := { fresh with inflight := some (.prog 0 [1, 2]) }

/-- An erase of slot 0's first bytes is in flight. -/
def erasing : State := { afterWrite with inflight := some (.erase 0 8) }

/-- The FAULT state. -/
def faulted : State := { fresh with seq := .fault, fault := true, status := .hardwareFault }

/-- The state an outcome gives, if any. -/
def nextOf (o : Host.Outcome State Fault Refusal) : Option State :=
  match o with
  | .next t => some t
  | .fault _ => none
  | .refused _ => none

/-! ### Single steps with results from 95_test_vectors.md -/

/-- V-CRC-26: CRC.INIT discards what was accumulated. -/
theorem test_crcInit :
    (nextOf (exec .crcInit { fresh with crc := 0x7C231048 })).map State.crc = some 0xFFFFFFFF := by decide +kernel

/-- V-CRC-6, V-CRC-19. -/
theorem test_crcByte :
    (nextOf (exec (.crcByte 0x31) { fresh with crc := 0xFFFFFFFF })).map State.crc = some 0x7C231048 ∧
      (nextOf (exec (.crcByte 0x80) { fresh with crc := 0 })).map State.crc = some 0xEDB88320 := by decide +kernel

/-- V-CRC-6, V-CRC-24. -/
theorem test_crcFinal :
    (nextOf (exec .crcFinal { fresh with crc := 0x340BC6D9 })).map (fun t => (t.crc, t.resp)) =
      some (0x340BC6D9, some (.value 0xCBF43926)) := by decide +kernel

/-- V-REC-1, V-REC-2. -/
theorem test_recEnc :
    (nextOf (exec .recEnc { fresh with record := record1 0x52048D14 })).map State.img = some image1 ∧
      (nextOf (exec .recEnc { start (tiny .big false) [] with record := record1 0x96FB6A7E })).map State.img =
        some ([0x12, 0x34, 0x56, 0x78] ++ letters ++ [1, 2, 3, 4, 5, 6, 7, 8] ++ [0x96, 0xFB, 0x6A, 0x7E]) := by
  decide +kernel

/-- V-REC-4. -/
theorem test_recDec :
    (nextOf (exec .recDec { fresh with img := image4 })).map State.record =
      some { blockId := 0, payloadA := letters, payloadB := rep 0xFF 8, reserved := [], checksum := 0x6625B1E2 } := by
  decide +kernel

/-- V-REC-3. -/
theorem test_recCsum :
    (nextOf (exec .recCsum { fresh with img := image1 })).map (fun t => (t.crc, t.resp)) =
      some (0xADFB72EB, some (.value 0x52048D14)) := by decide +kernel

/-- V-REC-8. -/
theorem test_recValid :
    (nextOf (exec .recValid { fresh with record := decodeRecord (tiny .little false) image4 })).map
        (fun t => (t.crc, t.resp)) = some (0x99DA4E1D, some (.valid true)) ∧
      (nextOf (exec .recValid { fresh with record := decodeRecord (tiny .little false) (image4.set 4 0x40) })).map
        (fun t => (t.crc, t.resp)) = some (0xC84D2073 ^^^ 0xFFFFFFFF, some (.valid false)) := by decide +kernel

/-- V-RGN-1, V-RGN-12. -/
theorem test_rgnRead :
    (nextOf (exec (.rgnRead 0 4) fresh)).map State.resp = some (some (.region true (rep 0xFF 4))) ∧
      (nextOf (exec (.rgnRead 0xFFFFFFFF 0xFFFFFFFF) fresh)).map State.resp = some (some (.region false [])) := by
  decide +kernel

/-- R103: a request of no bytes is in range up to the region's end and answers ok with empty data, also when
the platform fails or never answers; one past the end it is out of range. -/
theorem test_emptyRequest :
    let f : State := { fresh with answers := [.fail 7] }
    let g : State := { fresh with answers := [.never] }
    ([exec (.rgnRead 51 0) f, exec (.rgnProg 51 []) g, exec (.rgnErase 0 0) f, exec (.rgnRead 52 0) f].map
      fun o => (nextOf o).map State.resp) =
      [some (some (.region true [])), some (some (.region true [])), some (some (.region true [])),
        some (some (.region false []))] := by decide +kernel

/-- V-RGN-2, V-RGN-3: a bit goes from 0 to 1 without an erase; V-RGN-13: one of the sixteen outcomes. -/
theorem test_rgnProg :
    (nextOf (exec (.rgnProg 0 [0xFF, 0xFF]) { fresh with rgn := [(0, 0), (1, 0), (2, 0)] })).map State.rgn =
      some [(2, 0)] ∧
      (nextOf (exec (.rgnProg 8 [0xAA, 0xBB, 0xCC, 0xDD])
        { fresh with rgn := [(8, 0x11), (9, 0x22), (10, 0x33), (11, 0x44)], answers := [.fail 0b0110] })).map
        (fun t => (t.rgn, t.resp)) =
        some ([(8, 0x11), (9, 0xBB), (10, 0xCC), (11, 0x44)], some (.region false [])) := by decide +kernel

/-- V-RGN-17: nothing outside the range is erased; V-RGN-8: out of range. -/
theorem test_rgnErase :
    (nextOf (exec (.rgnErase 2 2) { fresh with rgn := [(1, 0), (2, 0), (3, 0), (4, 0)] })).map State.rgn =
      some [(1, 0), (4, 0)] ∧
      (nextOf (exec (.rgnErase 0 52) afterWrite)).map (fun t => (t.rgn == afterWrite.rgn, t.resp)) =
        some (true, some (.region false [])) := by decide +kernel

/-- V-ST-4, V-ST-18. -/
theorem test_cfgRead :
    (nextOf (exec (.cfgRead true 3) afterWrite)).map (fun t => (t.resp, t.ptr, t.trace)) =
      some (some (.store .ok 3 [0x41, 0x42, 0x43, 0, 0, 0, 0, 0]), 0, [.read 0 24]) ∧
      (nextOf (exec (.cfgRead true 8) (start (tiny .little true) []))).map (fun t => (t.resp, t.ptr)) =
        some (some (.store .notFound 0 (rep 0 8)), 2) := by decide +kernel

/-- V-ST-9; V-ST-13: the write lands in slot 1. -/
theorem test_cfgWrite :
    (nextOf (exec (.cfgWrite true 8 letters) fresh)).map
        (fun t => (t.rgn.readBytes 0 24, t.crc, t.resp, t.trace)) =
      some (image4, 0x99DA4E1D, some (.store .ok 0 (rep 0 8)), [.read 0 24, .prog 0 image4]) ∧
      (nextOf (exec (.cfgWrite true 1 (0x41 :: rep 0 7)) irregular)).map
        (fun t => (t.ptr, t.rgn.readBytes 0 5, t.rgn.readBytes 24 5)) =
        some (1, [0xFF, 0xFF, 0, 0, 0xFF], [0, 0, 0, 0, 0x41]) := by decide +kernel

/-- Every row of the opcode table runs as the first request after reset and is answered. -/
theorem test_every_row_runs :
    ([0x1000, 0x2000, 0x3000, 0x4000, 0x5000, 0x6000, 0x7000, 0x8000, 0x9000, 0xA000, 0xC000, 0xD000].all
      fun w => (nextOf (step (State.reset.withFetchWord 16 w))).any fun t => t.resp.isSome) = true := by
  decide +kernel

/-! ### Witnesses: a concrete state and operands for the hypotheses of each obligation -/

theorem witness_DecodeEncodeRoundTrip :
    (Instr.cfgWrite true 255 (rep 0xFF 8)).wellFormed = true ∧
      (Instr.rgnProg 0xFFFFFFFF [0xFF]).wellFormed = true := by decide

/-- The side band of CFG.WRITE is longer than eight bytes and is cut (R93). -/
theorem witness_DecodedRequestIsWellFormed :
    accepts (req .store 0xD1FF 0 0 (rep 1 9)) (.cfgWrite true 255 (rep 1 8)) = true ∧
      accepts (req .region 0x9000 0 0 []) (.rgnProg 0 []) = true := by decide

theorem witness_HeaderSelectsAtMostOneRow :
    Op.selects .crcByte 0x20FF = true ∧ Op.selects .cfgRead 0xC1FF = true ∧
      Op.selects .cfgWrite 0xD000 = true := by decide

/-- Both ports of the equivalence, at the ends of the legal headers. -/
theorem witness_StoreHeaderLegality :
    accepts (req .store 0xC000 0 0 []) (.cfgRead false 0) = true ∧
      accepts (req .store 0xD1FF 0 0 []) (.cfgWrite true 255 (rep 0 8)) = true ∧
      rejects (req .store 0xC200 0 0 []) .nonzeroField = true := by decide

theorem witness_PortsAcceptOwnSelectors :
    accepts (req .crc 0x1000 0 0 []) .crcInit = true ∧ accepts (req .crc 0x3000 0 0 []) .crcFinal = true ∧
      accepts (req .codec 0x4000 0 0 []) .recEnc = true ∧ accepts (req .codec 0x7000 0 0 []) .recValid = true ∧
      accepts (req .region 0x8000 0 0 []) (.rgnRead 0 0) = true ∧
      accepts (req .region 0xA000 0 0 []) (.rgnErase 0 0) = true ∧
      accepts (req .store 0xC000 0 0 []) (.cfgRead false 0) = true ∧
      accepts (req .store 0xD000 0 0 []) (.cfgWrite false 0 (rep 0 8)) = true := by decide

/-- A reset while idle (in FAULT), and one behind a request while a command waits. -/
theorem witness_ResetWritesControlRegisters :
    let s : State := { faulted with inputs := [.reset 0] }
    let t : State := { waiting with inputs := [.request (req .store 0xC108 0 0 []), .reset 7] }
    (s.cfg.legal = true ∧ s.busy = false ∧ s.inputs = .reset 0 :: []) ∧
      t.cfg.legal = true ∧ t.busy = true ∧
        firstReset t.inputs = some (7, [.request (req .store 0xC108 0 0 [])]) := by decide +kernel

/-- A read, a program and an erase in flight. -/
theorem witness_InterruptedRequestLeavesMix :
    (waiting.cfg.legal = true ∧ waiting.rgn.wf ∧ waiting.inflight = some (.read 0 24)) ∧
      (programming.cfg.legal = true ∧ programming.rgn.wf ∧ programming.inflight = some (.prog 0 [1, 2])) ∧
      (erasing.cfg.legal = true ∧ erasing.rgn.wf ∧ erasing.inflight = some (.erase 0 8)) ∧
      firstReset [.reset 1] = some (1, []) := by decide +kernel

theorem witness_EveryPerByteMixIsAdmitted :
    afterWrite.rgn.wf ∧ (RgnRequest.erase 0 2).newBytes.length = 2 := by decide +kernel

/-- The last bit of a two-byte sequence. -/
theorem witness_CrcDetectsSingleBit : 15 < 8 * ([0xFF, 0x00] : List Byte).length := by decide

theorem witness_CodecFunctionsAreInverse :
    (record1 0).sized (tiny .big true) = true ∧ image1.length = (tiny .big true).recordSize := by decide

theorem witness_ImageBytesAreWired :
    (record1 0x52048D14).sized (tiny .little false) = true ∧
      ({ record1 0 with reserved := rep 0x5A 256 } : Record).sized Config.reference = true := by decide +kernel

theorem witness_RecCsumResult : (image1.take 20).length = fresh.cfg.csOff := by decide

theorem witness_SealMakesRecordValid :
    ({ fresh with record := record1 7 } : State).record.sized fresh.cfg = true := by decide

theorem witness_ErasedAndReinitRecords :
    Config.reference.reservedLen = 256 ∧ (tiny .big false).reservedLen = 0 := by decide

/-- The first bit of the image and the last bit of the checksum. -/
theorem witness_FlippedBitInvalidatesRecord :
    image4.length = (tiny .little false).recordSize ∧ 0 < 8 * (tiny .little false).recordSize ∧
      191 < 8 * (tiny .little false).recordSize ∧
      recordValid (tiny .little false) (decodeRecord (tiny .little false) image4) = true := by decide +kernel

/-- A range ending exactly at the region's end, and one a byte longer (V-RGN-5, V-RGN-6). -/
theorem witness_RgnReadResult :
    fresh.busy = false ∧ (47 : Word).toNat + (4 : Word).toNat ≤ fresh.cfg.regionSize ∧
      fresh.cfg.regionSize < (48 : Word).toNat + (4 : Word).toNat ∧ fresh.nextAnswer = .ok ∧
      ({ fresh with answers := [.fail 5] } : State).busy = false ∧ (4 : Word) ≠ 0 ∧
      ({ fresh with answers := [.fail 5] } : State).nextAnswer = .fail 5 ∧
      (51 : Word).toNat + (0 : Word).toNat ≤ fresh.cfg.regionSize := by decide +kernel

theorem witness_RgnProgResult :
    fresh.busy = false ∧ fresh.rgn.wf ∧ (49 : Word).toNat + (rep 0 2).length ≤ fresh.cfg.regionSize ∧
      fresh.cfg.regionSize < (50 : Word).toNat + (rep 0 2).length ∧ fresh.nextAnswer = .ok ∧
      ({ fresh with answers := [.fail 1] } : State).busy = false ∧ rep 0 2 ≠ [] ∧
      ({ fresh with answers := [.fail 1] } : State).nextAnswer = .fail 1 ∧
      (51 : Word).toNat + ([] : List Byte).length ≤ fresh.cfg.regionSize := by decide +kernel

theorem witness_RgnEraseResult :
    afterWrite.busy = false ∧ afterWrite.rgn.wf ∧
      (0 : Word).toNat + (51 : Word).toNat ≤ afterWrite.cfg.regionSize ∧
      afterWrite.cfg.regionSize < (0 : Word).toNat + (52 : Word).toNat ∧ afterWrite.nextAnswer = .ok ∧
      ({ afterWrite with answers := [.fail 1] } : State).busy = false ∧ (51 : Word) ≠ 0 ∧
      ({ afterWrite with answers := [.fail 1] } : State).nextAnswer = .fail 1 ∧
      afterWrite.nextAnswer ≠ .never ∧
      (51 : Word).toNat + (0 : Word).toNat ≤ afterWrite.cfg.regionSize := by decide +kernel

/-- A state whose platform fails every request after the next `k`. -/
def failsAfter (k : Nat) (s : State) : State := { s with answers := List.replicate k .ok ++ [.fail 0] }

/-- The hypotheses most store statements share, for a command of `k` requests, with a platform that fails
the request after them. -/
def Runs (k : Nat) (s : State) : Prop :=
  (failsAfter k s).cfg.legal = true ∧ (failsAfter k s).ready ∧ (failsAfter k s).okFor k ∧ (failsAfter k s).rgn.wf

theorem witness_ReadReturnsProgrammedBytes :
    let s : State := failsAfter 2 afterWrite
    s.busy = false ∧ s.rgn.wf ∧ s.okFor 2 ∧ (rep 0 3).length < 2 ^ 32 ∧
      (48 : Word).toNat + (rep 0 3).length ≤ s.cfg.regionSize := by
  unfold State.okFor; decide +kernel

/-- A program that ends at the region's end, an erase of the whole region, and a read. -/
theorem witness_RegionRequestIsIdempotent :
    let s : State := failsAfter 2 irregular
    s.busy = false ∧ s.rgn.wf ∧ s.okFor 2 ∧ (49 : Word).toNat + (rep 0 2).length ≤ s.cfg.regionSize ∧
      (0 : Word).toNat + (51 : Word).toNat ≤ s.cfg.regionSize := by
  unfold State.okFor; decide +kernel

/-- A request that finds no answer, a machine that waits, and a machine that is busy. -/
theorem witness_UnansweredRequestWaits :
    let s : State := { fresh with answers := [.never] }
    (s.busy = false ∧ (51 : Word) ≠ 0 ∧ (0 : Word).toNat + (51 : Word).toNat ≤ s.cfg.regionSize ∧
      rep 0 2 ≠ [] ∧ (49 : Word).toNat + (rep 0 2).length ≤ s.cfg.regionSize ∧ s.nextAnswer = .never) ∧
      (waiting.cfg.legal = true ∧ waiting.inflight.isSome = true ∧ firstReset waiting.inputs = none) ∧
      waiting.busy = true := by decide +kernel

theorem witness_SlotsTileTheRegion : 1 < (tiny .little false).recordCount := by decide

/-- A legal and an illegal header, in FAULT; a step that stays in FAULT, and a reset out of it. -/
theorem witness_FaultStateAnswersHardwareFault :
    let s : State := { faulted with
      inputs := [.request (req .store 0x0000 0 0 []), .request (req .store 0xC108 0 0 [])] }
    s.cfg.legal = true ∧ s.seq = .fault ∧ s.inflight = none ∧ s.inputs.length = 2 ∧ (req .store 0x0000 0 0 []).port = .store ∧
      (faulted.seq = .fault ∧ faulted.fault = true ∧ nextOf (step faulted) = some faulted) ∧
      (nextOf (step { faulted with inputs := [.reset 0] })).map State.seq = some .idle := by decide +kernel

/-- The shortest bad length, and an absent buffer with a good one (V-ERR-5). -/
theorem witness_InvalidLengthRaised :
    fresh.ready ∧ 8 < (9 : Byte).toNat ∧ ¬ 8 < (0 : Byte).toNat := by
  unfold State.ready; decide

/-- V-ERR-6 to V-ERR-8. -/
theorem witness_IllegalRequestRaised :
    let r : Request := req .store 0xC209 0 0 []
    let s : State := { fresh with inputs := [.request r] }
    s.cfg.legal = true ∧ s.ready ∧ s.inputs = .request r :: [] ∧ r.port = .store ∧
      ¬ ((Header.sel r.hdr = 0xC ∨ Header.sel r.hdr = 0xD) ∧ Header.z r.hdr = 0) ∧
      ¬ ((Header.sel (0x2031 : Header) = 0xC ∨ Header.sel (0x2031 : Header) = 0xD) ∧
        Header.z (0x2031 : Header) = 0) := by
  unfold State.ready; decide +kernel

/-- A read whose second request fails, a write whose program fails, a read that is never answered. The
answer that is not ok stands at the last request of each kind of command: a read of a fresh part, one that
finds slot 0, a write to slot 0, a compaction. -/
theorem witness_FailingRequestEndsCommand :
    (fresh.cfg.legal = true ∧ fresh.ready ∧ (8 : Byte).toNat ≤ 8) ∧
    (nextOf (exec (.cfgRead true 8) { fresh with answers := [.ok, .fail 0] })).map
        (fun t => (t.trace.length, t.seq)) = some (2, .fault) ∧
      (nextOf (exec (.cfgWrite true 8 letters) { fresh with answers := [.ok, .fail 3] })).map
        (fun t => (t.trace.length, t.fault)) = some (2, true) ∧
      (nextOf (exec (.cfgRead true 0) { fresh with answers := [.never] })).map
        (fun t => (t.resp, t.inflight)) = some (none, some (.read 0 24)) ∧
      (∀ j < 5, (failsAfter j fresh).okFor j ∧ (failsAfter j fresh).answers.getD j .ok ≠ .ok) ∧
      fresh.noSlot Record.occupied ∧ 1 < fresh.cfg.recordCount ∧
      afterWrite.firstSlot Record.occupied 0 ∧ 0 < 0 + 1 ∧ afterWrite.firstSlot Record.isMatching 0 ∧ 1 < 0 + 2 ∧
      exhausted.noSlot Record.isMatching ∧ 4 < 2 * exhausted.cfg.recordCount + 1 := by
  unfold State.ready State.okFor State.firstSlot State.noSlot; decide +kernel

/-- CFG.WRITE: a first read that fails (V-ERR-12) and a second, and a program that fails with a mix. -/
theorem witness_CutOffCommandByStage :
    (irregular.cfg.legal = true ∧ irregular.ready ∧ irregular.rgn.wf ∧ letters.length = 8 ∧ (8 : Byte).toNat ≤ 8) ∧
    (nextOf (exec (.cfgWrite true 8 letters) { afterWrite with img := image1, answers := [.fail 0] })).map
        (fun t => (t.ptr, t.seq, t.img)) = some (0, .fault, image1) ∧
      (nextOf (exec (.cfgWrite true 8 letters) { irregular with answers := [.ok, .fail 0] })).map
        (fun t => (t.ptr, t.seq, t.img)) = some (1, .fault, irregular.slotImg 0) ∧
      (nextOf (exec (.cfgWrite true 2 letters) { fresh with answers := [.ok, .fail 3] })).map
        (fun t => (t.ptr, t.seq, t.rgn)) = some (0, .fault, [(0, 0), (1, 0)]) := by
  unfold State.ready; decide +kernel

/-- A compaction whose erase is not answered (V-ERR-13), whose slot 0 is failed and not answered, and whose
last program fails. -/
theorem witness_CutOffCompaction :
    (exhausted.cfg.legal = true ∧ exhausted.ready ∧ exhausted.rgn.wf) ∧
    (nextOf (exec (.cfgWrite true 8 letters) { exhausted with answers := [.ok, .ok, .never] })).map
        (fun t => (t.ptr, t.seq, t.img)) = some (2, .cpErase, exhausted.slotImg 1) ∧
      (nextOf (exec (.cfgWrite true 8 letters) { exhausted with answers := [.ok, .ok, .ok, .fail 0] })).map
        (fun t => (t.ptr, t.seq, t.img)) = some (0, .fault, image4) ∧
      (nextOf (exec (.cfgWrite true 8 letters) { exhausted with answers := [.ok, .ok, .ok, .never] })).map
        (fun t => (t.ptr, t.seq, t.inflight)) = some (0, .cpSlot0, some (.prog 0 image4)) ∧
      (nextOf (exec (.cfgWrite true 8 letters) { exhausted with answers := [.ok, .ok, .ok, .ok, .fail 0] })).map
        (fun t => (t.ptr, t.seq)) = some (1, .fault) := by
  unfold State.ready; decide +kernel

/-- CFG.READ: a first read that is not answered, and a second; a second that fails. -/
theorem witness_CutOffRead :
    (nextOf (exec (.cfgRead true 8) { afterWrite with img := image1, answers := [.never] })).map
        (fun t => (t.ptr, t.seq, t.img)) = some (0, .rdScan, image1) ∧
      (nextOf (exec (.cfgRead true 8) { fresh with answers := [.ok, .never] })).map
        (fun t => (t.ptr, t.seq, t.img)) = some (1, .rdScan, rep 0xFF 24) ∧
      (nextOf (exec (.cfgRead true 8) { fresh with status := .notFound, answers := [.ok, .never] })).map
        (fun t => (t.status, t.fault, t.inflight)) = some (.notFound, false, some (.read 24 24)) ∧
      (nextOf (exec (.cfgRead true 8) { fresh with answers := [.ok, .fail 0] })).map
        (fun t => (t.seq, t.inflight)) = some (.fault, none) := by decide +kernel

theorem witness_StoreCommandFrame :
    fresh.cfg.legal = true ∧ fresh.rgn.wf ∧
      (nextOf (exec (.cfgWrite true 8 letters) { fresh with answers := [.ok, .fail 3] })).isSome = true := by
  decide +kernel

/-- The first slot and the last slot, the longest read, with and without verifying. -/
theorem witness_CfgReadReturnsFirstOccupied :
    let v : State := start (tiny .little true) (Memory.program [] 0 image4)
    (Runs 1 afterWrite ∧ afterWrite.firstSlot Record.occupied 0 ∧ (8 : Byte).toNat ≤ 8) ∧
      (Runs 2 laterSlot ∧ laterSlot.firstSlot Record.occupied 1 ∧ laterSlot.cfg.verifyOnRead = false) ∧
      Runs 1 v ∧ v.firstSlot Record.occupied 0 ∧ recordValid v.cfg (v.slotRec 0) = true := by
  unfold Runs State.ready State.okFor State.firstSlot; decide +kernel

/-- V-ST-17 with verifying. -/
theorem witness_CfgReadReportsCorrupt :
    let s : State := start (tiny .little true) (Memory.program [] 0 (image4.set 4 0x40))
    Runs 1 s ∧ (8 : Byte).toNat ≤ 8 ∧ s.firstSlot Record.occupied 0 ∧
      s.cfg.verifyOnRead = true ∧ recordValid s.cfg (s.slotRec 0) = false := by
  unfold Runs State.ready State.okFor State.firstSlot; decide +kernel

theorem witness_CfgReadReportsNotFound :
    (Runs 2 fresh ∧ fresh.classEmpty ∧ (0 : Byte).toNat ≤ 8) ∧
      Runs 2 (start (tiny .big true) []) ∧ (start (tiny .big true) []).classEmpty := by
  unfold Runs State.ready State.okFor State.classEmpty; decide +kernel

theorem witness_CfgReadNeverChangesRegion :
    afterWrite.cfg.legal = true ∧ afterWrite.cfg.verifyOnRead = false ∧
      (nextOf (exec (.cfgRead true 8) afterWrite)).isSome = true := by decide +kernel

/-- The first and the last slot. -/
theorem witness_CfgWriteCommitsFirstMatch :
    (Runs 2 fresh ∧ fresh.firstSlot Record.isMatching 0) ∧
      (Runs 2 afterWrite ∧ afterWrite.firstSlot Record.isMatching 0) ∧
      (Runs 3 irregular ∧ irregular.firstSlot Record.isMatching 1) ∧
      letters.length = 8 ∧ (8 : Byte).toNat ≤ 8 := by
  unfold Runs State.ready State.okFor State.firstSlot; decide +kernel

/-- Two slots, and one slot only (V-ST-15). -/
theorem witness_CfgWriteCompacts :
    let one : State := start { tiny .little false with regionSize := 25 } [(0, 5), (1, 0), (2, 0), (3, 0)]
    (Runs 5 exhausted ∧ exhausted.classExhausted) ∧ (Runs 3 one ∧ one.classExhausted) ∧
      letters.length = 8 ∧ (8 : Byte).toNat ≤ 8 := by
  unfold Runs State.ready State.okFor State.classExhausted; decide +kernel

/-- OK, HardwareFault and no answer. -/
theorem witness_CfgWriteReportsOkOrHardwareFault :
    (exhausted.cfg.legal = true ∧ exhausted.ready ∧ (1 : Byte).toNat ≤ 8) ∧
    (nextOf (exec (.cfgWrite true 1 letters) exhausted)).map State.seq = some .idle ∧
      (nextOf (exec (.cfgWrite true 1 letters) { exhausted with answers := [.ok, .ok, .fail 9] })).map State.seq =
        some .fault ∧
      (nextOf (exec (.cfgWrite true 1 letters) { exhausted with answers := [.ok, .ok, .never] })).map State.seq =
        some .cpErase := by
  unfold State.ready; decide +kernel

/-- Slot 0 matches; no slot matches. -/
theorem witness_WriteThenReadReturnsBytes :
    (Runs 3 afterWrite ∧ afterWrite.firstSlot Record.isMatching 0) ∧
      (Runs 6 exhausted ∧ exhausted.noSlot Record.isMatching) ∧ letters.length = 8 ∧ (8 : Byte).toNat ≤ 8 := by
  unfold Runs State.ready State.okFor State.firstSlot State.noSlot; decide +kernel

/-- V-ST-13. -/
theorem witness_StaleReadBehindIrregularSlot :
    Runs 4 irregular ∧ irregular.cfg.verifyOnRead = false ∧ 1 ≤ 1 ∧ irregular.firstSlot Record.isMatching 1 ∧
      letters.length = 8 ∧ (8 : Byte).toNat ≤ 8 ∧ (0 : Byte).toNat ≤ 8 := by
  unfold Runs State.ready State.okFor State.firstSlot; decide +kernel

/-- The first slot, the last slot, and a compaction. -/
theorem witness_RepeatedWriteLeavesRegion :
    (Runs 4 afterWrite ∧ afterWrite.firstSlot Record.isMatching 0) ∧
      (Runs 6 irregular ∧ irregular.firstSlot Record.isMatching 1) ∧
      (Runs 7 exhausted ∧ exhausted.noSlot Record.isMatching) ∧
      (0 : Byte).toNat ≤ 8 ∧ (8 : Byte).toNat ≤ 8 ∧ (rep 0 8).length = 8 := by
  unfold Runs State.ready State.okFor State.firstSlot State.noSlot; decide +kernel

/-- A region of each class. -/
theorem witness_RegionClassesPartition :
    fresh.cfg.legal = true ∧ fresh.classEmpty ∧ afterWrite.classWritten ∧ exhausted.classExhausted ∧
      irregular.classIrregular := by
  unfold State.classIrregular State.classEmpty State.classWritten State.classExhausted; decide +kernel

theorem witness_WriteLeadsToClassWritten :
    (Runs 2 fresh ∧ fresh.classEmpty) ∧ (Runs 2 afterWrite ∧ afterWrite.classWritten) ∧
      (Runs 5 exhausted ∧ exhausted.classExhausted) ∧ letters.length = 8 ∧ (8 : Byte).toNat ≤ 8 := by
  unfold Runs State.ready State.okFor State.classEmpty State.classWritten State.classExhausted; decide +kernel

/-- Two states that agree on configuration, region and answers and differ in every other register. -/
theorem witness_StoreCommandIgnoresOldRegisters :
    let s : State := { afterWrite with
      crc := 7, record := record1 7, img := image1, ptr := 1, status := .notFound
      written := { crc := true, record := true, img := true, ptr := true } }
    afterWrite.cfg.legal = true ∧ afterWrite.ready ∧ s.cfg = afterWrite.cfg ∧ s.rgn = afterWrite.rgn ∧ s.answers = afterWrite.answers ∧
      s.ready ∧ (nextOf (exec (.cfgRead true 8) s)).isSome = true ∧
      (nextOf (exec (.cfgRead true 8) afterWrite)).isSome = true := by
  unfold State.ready; decide +kernel

/-- A store command, and a request at an internal port. -/
theorem witness_StepRunsDecodedInstruction :
    let r : Request := req .store 0xC108 0 0 []
    let s : State := { afterWrite with inputs := [.request r, .reset 0] }
    s.cfg.legal = true ∧ s.busy = false ∧ s.inputs = .request r :: [.reset 0] ∧ accepts r (.cfgRead true 8) = true ∧
      accepts (req .codec 0x6000 0 0 []) .recCsum = true := by decide +kernel

/-- The refusal a step gives, if any. -/
def refusedOf (o : Host.Outcome State Fault Refusal) : Option Refusal :=
  match o with
  | .next _ => none
  | .fault _ => none
  | .refused r => some r

theorem witness_RefusedExactly :
    refusedOf (step { fresh with cfg := { tiny .little false with regionSize := 23 } }) =
        some .illegalConfiguration ∧
      refusedOf (step { fresh with inputs := [.request (req .codec 0xB000 0 0 [])] }) = some .unmatchedHeader ∧
      refusedOf (step { fresh with inputs := [.request (req .region 0x9000 0 2 [1])] }) = some .wdataLength ∧
      fresh.cfg.legal = true ∧ fresh.busy = false ∧ rejects (req .codec 0xB000 0 0 []) .reservedSelector = true ∧
      rejects (req .region 0x9000 0 2 [1]) .wdataLength = true := by
  decide +kernel

/-- A state that meets the invariant, with an undecodable request at an internal port. -/
theorem witness_InvariantStepNeverFaults :
    ({ fresh with inputs := [.request (req .codec 0xB000 0 0 [])] } : State).Inv := by
  constructor <;> decide +kernel

/-- An access that ends at the region's end; a machine that is busy and steps. -/
theorem witness_PlatformMovesBetweenCommands :
    let q : RgnRequest := .prog 49 [1, 2]
    let s : State := { fresh with inputs := [.platform q] }
    (s.cfg.legal = true ∧ s.busy = false ∧ s.rgn.wf ∧ s.inputs = .platform q :: [] ∧ q.inRange s.cfg = true) ∧
      waiting.busy = true ∧ (nextOf (step waiting)).isSome = true ∧
      (nextOf (step { waiting with inputs := [.platform q, .reset 0] })).map State.inputs =
        some [.platform q] := by decide +kernel

/-- The invariant holds of a region with a written slot and of a command that waits, and both step. -/
theorem witness_StepKeepsInvariant : (afterWrite.Inv ∧ waiting.Inv) ∧
    (nextOf (step { afterWrite with inputs := [.request (req .store 0xD108 0 0 letters)] })).isSome = true ∧
      (nextOf (step afterWrite)).isSome = true ∧ (nextOf (step waiting)).isSome = true := by
  refine ⟨⟨?_, ?_⟩, by decide +kernel⟩ <;> constructor <;> decide +kernel

end Sys2Proof.Tests
end

section
/-! The classes of a region (R175). A legal region has a slot 0, and its `block_id` tells the three named classes
apart: the erased word in EMPTY, the written word in WRITTEN, neither in EXHAUSTED. -/

namespace Sys2Proof.Machine

variable {s : State}

theorem erasedId_ne_writtenId : erasedId ≠ writtenId := by decide

theorem Config.recordCount_pos_of_legal {c : Config} (h : c.legal = true) : 0 < c.recordCount := by
  obtain ⟨_, _, _, hcount, _⟩ := Config.legal_bounds h
  exact hcount

theorem State.classEmpty.not_classWritten (hc : 0 < s.cfg.recordCount) (he : s.classEmpty) :
    ¬ s.classWritten := by
  rintro ⟨hzero, _⟩
  exact erasedId_ne_writtenId ((he 0 hc).symm.trans hzero)

theorem State.classExhausted.not_classEmpty (hc : 0 < s.cfg.recordCount) (hx : s.classExhausted) :
    ¬ s.classEmpty := fun he => (hx 0 hc).left (he 0 hc)

theorem State.classExhausted.not_classWritten (hc : 0 < s.cfg.recordCount) (hx : s.classExhausted) :
    ¬ s.classWritten := fun ⟨hzero, _⟩ => (hx 0 hc).right hzero

theorem State.classIrregular_iff :
    s.classIrregular ↔ ¬ (s.classEmpty ∨ s.classWritten ∨ s.classExhausted) := by
  simp only [State.classIrregular, not_or]

theorem State.some_class (s : State) :
    s.classEmpty ∨ s.classWritten ∨ s.classExhausted ∨ s.classIrregular := by
  by_cases hnamed : s.classEmpty ∨ s.classWritten ∨ s.classExhausted
  · obtain he | hw | hx := hnamed
    · exact .inl he
    · exact .inr (.inl hw)
    · exact .inr (.inr (.inl hx))
  · exact .inr (.inr (.inr (State.classIrregular_iff.mpr hnamed)))

end Sys2Proof.Machine
end

section
open Sys2Proof Sys2Proof.Machine

/-- Settles O53: slot 0 tells EMPTY, WRITTEN and EXHAUSTED apart, and IRREGULAR is what they leave. -/
theorem regionClassesPartition : Obligations.RegionClassesPartition := by
  intro s hlegal
  have hc := Config.recordCount_pos_of_legal hlegal
  refine ⟨s.some_class, ?_, ?_, ?_, ?_⟩
  · exact fun ⟨he, hw⟩ => he.not_classWritten hc hw
  · exact fun ⟨he, hx⟩ => hx.not_classEmpty hc he
  · exact fun ⟨hw, hx⟩ => hx.not_classWritten hc hw
  · exact fun ⟨hirr, hnamed⟩ => State.classIrregular_iff.mp hirr hnamed

end

section
/-! Requests on the store port. One decodes to a store command or to none, and the second kind has an illegal header
(R90). What the prologue (R167) answers by itself leaves all but the response registers alone. -/

namespace Sys2Proof.Machine

/-! ### Headers of the store port -/

/-- `sel` and `z` stand in the bits the mask of format L keeps (R82, R85). -/
theorem Header.sel_and_maskL (h : Header) : Header.sel (h &&& 0xFE00) = Header.sel h := by
  rw [Header.sel, BitVec.extractLsb'_and]
  exact BitVec.and_allOnes

theorem Header.z_and_maskL (h : Header) : Header.z (h &&& 0xFE00) = Header.z h := by
  rw [Header.z, BitVec.extractLsb'_and]
  exact BitVec.and_allOnes

theorem Op.of_port_store {op : Op} (h : op.port = .store) : op = .cfgRead ∨ op = .cfgWrite := by
  cases op <;> simp [Op.port] at h ⊢

/-- A header that selects a row of the store port is legal there (R87, R90). -/
theorem Op.selects_store {op : Op} {h : Header} (hport : op.port = .store) (hsel : op.selects h = true) :
    (Header.sel h = 0xC ∨ Header.sel h = 0xD) ∧ Header.z h = 0 := by
  rw [← Header.sel_and_maskL h, ← Header.z_and_maskL h]
  obtain rfl | rfl := Op.of_port_store hport
  · have hmatch : h &&& 0xFE00 = 0xC000 := eq_of_beq hsel
    rw [hmatch]
    decide
  · have hmatch : h &&& 0xFE00 = 0xD000 := eq_of_beq hsel
    rw [hmatch]
    decide

theorem decodeOp_selects {h : Header} {op : Op} (hop : decodeOp h = some op) : op.selects h = true :=
  List.find?_some (p := fun op : Op => op.selects h) hop

/-- What is decoded are the operands of a row of the request's own port (R87, R95). -/
theorem decode_ok {r : Request} {i : Instr} (h : decode r = .ok i) :
    ∃ op : Op, op.selects r.hdr = true ∧ op.port = r.port ∧ operands op r = .ok i := by
  unfold decode at h
  split at h
  · cases h
  · rename_i op hop
    split at h
    · rename_i hport
      exact ⟨op, decodeOp_selects hop, hport, h⟩
    · cases h

/-! ### What a request on the store port is answered -/

variable {s : State} {r : Request}

/-- A request on the store port is an illegal one or a store command (R90, R167). -/
theorem perform_store (hport : r.port = .store) :
    perform r s = .next (illegalStoreRequest s) ∨
      ∃ bufp arg body, perform r s = .next (storeCommand bufp arg body s) := by
  unfold perform
  cases hd : decode r with
  | error e => simp [hport, rejectRequest]
  | ok i =>
    obtain ⟨op, _, hop, hi⟩ := decode_ok hd
    right
    obtain rfl | rfl := Op.of_port_store (hop.trans hport)
    · cases hi
      exact ⟨_, _, readBody _, rfl⟩
    · cases hi
      exact ⟨_, _, writeBody _ _, rfl⟩

/-- A header that is neither command makes the request an illegal one (R90). -/
theorem perform_illegalHeader (hport : r.port = .store)
    (h : ¬ ((Header.sel r.hdr = 0xC ∨ Header.sel r.hdr = 0xD) ∧ Header.z r.hdr = 0)) :
    perform r s = .next (illegalStoreRequest s) := by
  unfold perform
  cases hd : decode r with
  | error e => simp [hport, rejectRequest]
  | ok i =>
    obtain ⟨op, hsel, hop, _⟩ := decode_ok hd
    exact absurd (Op.selects_store (hop.trans hport) hsel) h

/-- In IDLE every kind but HardwareFault, raised, changes the response registers only (R201). -/
theorem State.raise_of_idle (h : s.seq = .idle) {k : Kind} (hk : k ≠ .hardwareFault) :
    s.raise k = s.respondEmpty k := by
  have hseq : { s.respondEmpty k with seq := .idle } = s.respondEmpty k := by rw [← h]; rfl
  cases k with
  | hardwareFault => exact absurd rfl hk
  | _ => exact hseq

theorem illegalStoreRequest_busy (hb : s.busy = true) : illegalStoreRequest s = s := by
  simp [illegalStoreRequest, hb]

/-- In FAULT an illegal header is answered like any other (R207). -/
theorem illegalStoreRequest_fault (hb : s.busy = false) (hf : s.seq = .fault) :
    illegalStoreRequest s = s.accepted.respondEmpty .hardwareFault := by
  simp [illegalStoreRequest, hb, hf, State.accepted]

theorem illegalStoreRequest_ready (hr : s.ready) :
    illegalStoreRequest s = s.accepted.respondEmpty .illegalRequest := by
  rw [← State.raise_of_idle (s := s.accepted) hr.1 (by decide)]
  simp [illegalStoreRequest, hr.busy, hr.1, State.accepted]

theorem State.busy_of_fault (hf : s.seq = .fault) (hi : s.inflight = none) : s.busy = false := by
  simp [State.busy, hf, Seq.running, hi]

end Sys2Proof.Machine
end

section
open Sys2Proof Sys2Proof.Machine

/-- Settles O39: the header decodes to nothing, and in IDLE the kind raised is all that is answered. -/
theorem illegalRequestRaised : Obligations.IllegalRequestRaised := by
  intro s r rest hlegal hr hin hport hhdr
  rw [step_request hlegal hr.busy hin, perform_illegalHeader hport hhdr,
    illegalStoreRequest_ready (s := s.withInputs rest) hr]
  rfl

/-- Settles O38: both commands share the prologue, which raises InvalidLength before any region request. -/
theorem invalidLengthRaised : Obligations.InvalidLengthRaised := by
  intro s bufp n wdata hr hbad t
  have hlen : badLength bufp n = true := by
    rw [← Bool.not_eq_false, badLength_iff]
    rintro ⟨hbuf, hle⟩
    obtain hlt | hbuf' := hbad
    · omega
    · exact absurd (hbuf.symm.trans hbuf') (by decide)
  have hprologue : ∀ body, storeCommand bufp n body s = t := fun body =>
    (storeCommand_badLength hr hlen).trans (State.raise_of_idle (s := s.accepted) hr.1 (by decide))
  exact ⟨congrArg Host.Outcome.next (hprologue _), congrArg Host.Outcome.next (hprologue _)⟩

end

section
/-! FAULT is sticky (R207): every request, on any port, keeps `seq` in FAULT and `fault` set. -/

namespace Sys2Proof.Machine

variable {s t : State}

/-- The FAULT state with its flag (R26, R27). -/
def State.InFault (s : State) : Prop := s.seq = .fault ∧ s.fault = true

theorem regionTransaction_inFault (q : RgnRequest) (h : s.InFault) : (regionTransaction q s).InFault := by
  obtain ⟨_, e⟩ | ⟨_, _, e⟩ | ⟨_, _, _, e⟩ | ⟨_, _, _, _, e⟩ | ⟨_, _, _, e⟩ := regionTransaction_cases q s <;>
    rw [e] <;> exact h

theorem storeCommand_inFault (bufp : Bool) (arg : Byte) (body : State → State) (h : s.InFault) :
    (storeCommand bufp arg body s).InFault := by
  cases hb : s.busy with
  | true => rw [storeCommand_busy hb]; exact h
  | false => rw [storeCommand_fault hb h.1]; exact h

theorem illegalStoreRequest_inFault (h : s.InFault) : (illegalStoreRequest s).InFault := by
  cases hb : s.busy with
  | true => rw [illegalStoreRequest_busy hb]; exact h
  | false => rw [illegalStoreRequest_fault hb h.1]; exact h

theorem exec_inFault (i : Instr) (h : s.InFault) : ∃ t, exec i s = .next t ∧ t.InFault := by
  cases i with
  | crcInit | crcByte | crcFinal | recEnc | recDec | recCsum | recValid => exact ⟨_, rfl, h⟩
  | rgnRead | rgnProg | rgnErase => exact ⟨_, rfl, regionTransaction_inFault _ h⟩
  | cfgRead | cfgWrite => exact ⟨_, rfl, storeCommand_inFault _ _ _ h⟩

/-- An undecodable request is answered on the store port only (R90). -/
theorem rejectRequest_next {p : Port} {e : DecodeError} (h : rejectRequest p e s = .next t) :
    t = illegalStoreRequest s := by
  cases p with
  | store => cases h; rfl
  | crc | codec => cases h
  | region => cases e <;> cases h

theorem perform_inFault {r : Request} (h : s.InFault) (ht : perform r s = .next t) : t.InFault := by
  unfold perform at ht
  split at ht
  · rename_i i _
    obtain ⟨u, hu, hf⟩ := exec_inFault i h
    cases hu.symm.trans ht
    exact hf
  · rw [rejectRequest_next ht]
    exact illegalStoreRequest_inFault h

theorem State.platformAccess_inFault (q : RgnRequest) (h : s.InFault) : (s.platformAccess q).InFault := by
  unfold State.platformAccess
  split <;> exact h

/-- Only a reset leaves FAULT (R207, R230). -/
theorem step_inFault (h : s.InFault) (ht : step s = .next t) :
    t.InFault ∨ ∃ draw rest, s.pending = .reset draw rest ∧ t = (s.withInputs rest).resetBy draw := by
  obtain ⟨_, e⟩ | ⟨_, ⟨_, e⟩ | ⟨draw, rest, hp, e⟩ | ⟨q, rest, _, e⟩ | ⟨r, rest, _, e⟩ | ⟨_, e⟩⟩ := step_cases s
  all_goals rw [e] at ht
  · cases ht
  · cases ht
    exact .inl h
  · cases ht
    exact .inr ⟨draw, rest, hp, rfl⟩
  · cases ht
    exact .inl (State.platformAccess_inFault (s := s.withInputs rest) q h)
  · exact .inl (perform_inFault (s := s.withInputs rest) h ht)
  · cases ht

end Sys2Proof.Machine
end

section
open Sys2Proof Sys2Proof.Machine

/-- Settles O37: both kinds of store request meet FAULT first, and FAULT is sticky but for a reset. -/
theorem faultStateAnswersHardwareFault : Obligations.FaultStateAnswersHardwareFault := by
  refine ⟨fun s r rest hlegal hf hi hin hport => ?_, fun s t hf hflag ht => ?_⟩
  · have hb : s.busy = false := State.busy_of_fault hf hi
    rw [step_request hlegal hb hin]
    obtain e | ⟨bufp, arg, body, e⟩ := perform_store (s := s.withInputs rest) hport
    · rw [e, illegalStoreRequest_fault (s := s.withInputs rest) hb hf]
      rfl
    · rw [e, storeCommand_fault (s := s.withInputs rest) hb hf]
      rfl
  · obtain hfault | ⟨draw, rest, hp, rfl⟩ := step_inFault ⟨hf, hflag⟩ ht
    · exact .inl hfault
    · exact .inr ⟨draw, rest, hp, rfl, rfl⟩

end

section
/-! The selector map read both ways (spec 30_encoding.md R87): the selector tells the rows apart, so the row a header
selects is the row it decodes to, and an encoded instruction decodes by its own row. -/

namespace Sys2Proof

theorem Op.mem_all (op : Op) : op ∈ Op.all := by
  cases op <;> decide

theorem Op.selects_iff {op : Op} {h : Header} : op.selects h = true ↔ h &&& op.mask = op.pattern :=
  beq_iff_eq

/-- Every mask keeps the selector (R87). -/
theorem Header.sel_and_mask (h : Header) (op : Op) : Header.sel (h &&& op.mask) = Header.sel h := by
  have hmask : op.mask.extractLsb' 12 4 = BitVec.allOnes 4 := by cases op <;> decide
  rw [Header.sel, BitVec.extractLsb'_and, hmask, BitVec.and_allOnes]
  rfl

/-- No two rows share a selector (R87). -/
theorem Op.sel_pattern_inj {op op' : Op} (h : Header.sel op.pattern = Header.sel op'.pattern) : op = op' := by
  have hall : ∀ p ∈ Op.all, ∀ p' ∈ Op.all, Header.sel p.pattern = Header.sel p'.pattern → p = p' := by decide
  exact hall op op.mem_all op' op'.mem_all h

theorem Op.sel_of_selects {op : Op} {h : Header} (hsel : op.selects h = true) :
    Header.sel h = Header.sel op.pattern := by
  rw [← Header.sel_and_mask h op, Op.selects_iff.1 hsel]

theorem Op.selects_unique {op op' : Op} {h : Header} (hop : op.selects h = true) (hop' : op'.selects h = true) :
    op = op' :=
  Op.sel_pattern_inj ((Op.sel_of_selects hop).symm.trans (Op.sel_of_selects hop'))

/-- The decoder finds exactly the row whose mask and pattern the header matches (R87). -/
theorem decodeOp_eq_some_iff {h : Header} {op : Op} : decodeOp h = some op ↔ op.selects h = true := by
  refine ⟨Machine.decodeOp_selects, fun hop => ?_⟩
  cases hd : decodeOp h with
  | none => exact absurd hop (List.find?_eq_none.1 hd op op.mem_all)
  | some op' => rw [Op.selects_unique (Machine.decodeOp_selects hd) hop]

/-- A request on the port of the row its header selects decodes to that row's operands (R95). -/
theorem decode_of_selects {r : Request} {op : Op} (hsel : op.selects r.hdr = true) (hport : op.port = r.port) :
    decode r = operands op r := by
  simp [decode, decodeOp_eq_some_iff.2 hsel, hport]

/-- An encoded instruction stands on its own port and row (R82, R87, R95). -/
theorem encode_onOwnRow (i : Instr) : Laws.EncodedOnOwnRow.Statement i := by
  cases i with
  | crcInit => exact Laws.EncodedOnOwnRow.crcInit
  | crcByte b => exact Laws.EncodedOnOwnRow.crcByte b
  | crcFinal => exact Laws.EncodedOnOwnRow.crcFinal
  | recEnc => exact Laws.EncodedOnOwnRow.recEnc
  | recDec => exact Laws.EncodedOnOwnRow.recDec
  | recCsum => exact Laws.EncodedOnOwnRow.recCsum
  | recValid => exact Laws.EncodedOnOwnRow.recValid
  | rgnRead off cnt => exact Laws.EncodedOnOwnRow.rgnRead off cnt
  | rgnProg off wdata => exact Laws.EncodedOnOwnRow.rgnProg off wdata
  | rgnErase off cnt => exact Laws.EncodedOnOwnRow.rgnErase off cnt
  | cfgRead bufp n => exact Laws.EncodedOnOwnRow.cfgRead bufp n
  | cfgWrite bufp n wdata => exact Laws.EncodedOnOwnRow.cfgWrite bufp n wdata

theorem decode_encode_eq_operands (i : Instr) : decode (encode i) = operands i.op (encode i) := by
  obtain ⟨hport, hsel, _⟩ := encode_onOwnRow i
  exact decode_of_selects hsel hport.symm

@[simp] theorem length_lanes8 (wdata : List Byte) : (lanes8 wdata).length = 8 := by
  simp [lanes8]

theorem lanes8_of_length {wdata : List Byte} (h : wdata.length = 8) : lanes8 wdata = wdata :=
  List.take_left' h

theorem Header.arg_crcByte (b : Byte) : Header.arg (encode (.crcByte b)).hdr = b := by
  revert b; decide

/-- Format L carries its two fields unchanged (R85, R89). -/
theorem Header.fields_formatL {op : Op} (hop : op = .cfgRead ∨ op = .cfgWrite) (bufp : Bool) (arg : Byte) :
    Header.bufp (formatL op bufp arg) = bufp ∧ Header.arg (formatL op bufp arg) = arg := by
  obtain rfl | rfl := hop <;> revert bufp arg <;> decide

/-- A well-formed instruction's operands are read back from its own request (R81, R83 to R86). -/
theorem operands_encode (i : Instr) (hi : i.wellFormed = true) : operands i.op (encode i) = .ok i := by
  cases i with
  | crcInit | crcFinal | recEnc | recDec | recCsum | recValid | rgnRead | rgnErase => rfl
  | crcByte b => exact congrArg (fun a => Except.ok (Instr.crcByte a)) (Header.arg_crcByte b)
  | rgnProg off wdata =>
    have hlen : wdata.length < 2 ^ 32 := of_decide_eq_true hi
    have hcnt : wdata.length = (BitVec.ofNat 32 wdata.length).toNat := by
      rw [BitVec.toNat_ofNat, Nat.mod_eq_of_lt hlen]
    exact if_pos hcnt
  | cfgRead bufp n =>
    obtain ⟨hbufp, harg⟩ := Header.fields_formatL (op := .cfgRead) (.inl rfl) bufp n
    exact congrArg₂ (fun p a => Except.ok (Instr.cfgRead p a)) hbufp harg
  | cfgWrite bufp n wdata =>
    obtain ⟨hbufp, harg⟩ := Header.fields_formatL (op := .cfgWrite) (.inr rfl) bufp n
    have hdata : lanes8 wdata = wdata := lanes8_of_length (eq_of_beq hi)
    show Except.ok (Instr.cfgWrite (Header.bufp (formatL .cfgWrite bufp n)) (Header.arg (formatL .cfgWrite bufp n))
      (lanes8 wdata)) = _
    rw [hbufp, harg, hdata]

/-- The header bits under the mask of format L are the selector and the zero field (R82, R85). -/
theorem Header.and_maskL (h : Header) : h &&& 0xFE00 = Header.sel h ++ Header.z h ++ (0 : BitVec 9) := by
  refine BitVec.eq_of_getLsbD_eq fun i hi => ?_
  simp only [Header.sel, Header.z, BitVec.getLsbD_and, BitVec.getLsbD_append, BitVec.getLsbD_extractLsb']
  interval_cases i <;> simp

/-- A legal header of the store port selects one of its two rows (R90). -/
theorem Op.selects_of_storeHeader {h : Header} (hsel : Header.sel h = 0xC ∨ Header.sel h = 0xD)
    (hz : Header.z h = 0) : ∃ op : Op, op.port = .store ∧ op.selects h = true := by
  obtain hsel | hsel := hsel
  · refine ⟨.cfgRead, rfl, Op.selects_iff.2 ?_⟩
    show h &&& 0xFE00 = 0xC000
    rw [Header.and_maskL, hsel, hz]
    decide
  · refine ⟨.cfgWrite, rfl, Op.selects_iff.2 ?_⟩
    show h &&& 0xFE00 = 0xD000
    rw [Header.and_maskL, hsel, hz]
    decide

/-- Every row of the store port takes any side band (R81). -/
theorem operands_store {op : Op} (hport : op.port = .store) (r : Request) : ∃ i, operands op r = .ok i := by
  obtain rfl | rfl := Machine.Op.of_port_store hport <;> exact ⟨_, rfl⟩

/-- The operands a row reads are well-formed, whatever the side band (R81). -/
theorem operands_wellFormed {op : Op} {r : Request} {i : Instr} (h : operands op r = .ok i) :
    i.wellFormed = true := by
  cases op with
  | rgnProg =>
    simp only [operands] at h
    split at h
    · rename_i hlen
      cases h
      exact decide_eq_true (hlen ▸ r.cnt.isLt)
    · cases h
  | cfgWrite =>
    cases h
    exact beq_iff_eq.2 (length_lanes8 r.wdata)
  | _ => cases h; rfl

end Sys2Proof
end

section
open Sys2Proof Sys2Proof.Machine

/-- Settles O1: the header selects the instruction's own row, and that row reads the operands back. -/
theorem decodeEncodeRoundTrip : Obligations.DecodeEncodeRoundTrip := by
  intro i hi
  rw [decode_encode_eq_operands, operands_encode i hi]

/-- Settles O2: what is decoded are the operands of some row. -/
theorem decodedRequestIsWellFormed : Obligations.DecodedRequestIsWellFormed := by
  intro r i h
  obtain ⟨_, _, _, hi⟩ := decode_ok h
  exact operands_wellFormed hi

/-- Settles O3: every mask keeps the selector, and no two rows share one. -/
theorem headerSelectsAtMostOneRow : Obligations.HeaderSelectsAtMostOneRow :=
  ⟨fun _ _ _ => Op.selects_unique, fun _ _ => decodeOp_eq_some_iff.trans Op.selects_iff⟩

/-- Settles O4: the two rows of the store port are matched by the selector and the zero field alone. -/
theorem storeHeaderLegality : Obligations.StoreHeaderLegality := by
  intro r hport
  constructor
  · rintro ⟨i, hi⟩
    obtain ⟨op, hsel, hop, _⟩ := decode_ok hi
    exact Op.selects_store (hop.trans hport) hsel
  · rintro ⟨hsel, hz⟩
    obtain ⟨op, hop, hrow⟩ := Op.selects_of_storeHeader hsel hz
    rw [decode_of_selects hrow (hop.trans hport.symm)]
    exact operands_store hop r

/-- Settles O5: the header has the selector of a row of its port. -/
theorem portsAcceptOwnSelectors : Obligations.PortsAcceptOwnSelectors := by
  intro r i h
  obtain ⟨op, hsel, hop, _⟩ := decode_ok h
  rw [← hop, Op.sel_of_selects hsel]
  cases op <;> simp only [Op.port] <;> decide

/-- Settles O6: each word is decoded. -/
theorem specHeadersDecode : Obligations.SpecHeadersDecode := by
  unfold Obligations.SpecHeadersDecode
  decide

/-- Settles O7: the side band is no part of a header, so each header is one of 256. -/
theorem textualFormHeaders : Obligations.TextualFormHeaders := by
  have hheaders : ∀ n : Byte, Instr.header (.crcByte n) = 0x2000 + n.setWidth 16 ∧
      formatL .cfgRead true n = 0xC100 + n.setWidth 16 ∧ formatL .cfgRead false n = 0xC000 + n.setWidth 16 ∧
      formatL .cfgWrite true n = 0xD100 + n.setWidth 16 ∧ formatL .cfgWrite false n = 0xD000 + n.setWidth 16 := by
    decide
  intro n
  obtain ⟨hbyte, hread, hreadNobuf, hwrite, hwriteNobuf⟩ := hheaders n
  exact ⟨hbyte, hread, hreadNobuf, fun _ => ⟨hwrite, hwriteNobuf⟩⟩

/-- Settles O8: the codes are read off, and each code function is one to one on its values. -/
theorem statusAndSequencerCodes : Obligations.StatusAndSequencerCodes := by
  refine ⟨by decide, by decide, fun k k' h => ?_, fun q q' h => ?_, fun k => ?_⟩
  · cases k <;> cases k' <;> simp [Kind.code] at h ⊢
  · cases q <;> cases q' <;> simp [Seq.code] at h ⊢
  · cases k <;> decide

end

section
/-! Requests on the region port (spec 40_region_ops.md): what one leaves depends on its range and its new bytes only,
and a second one like it that succeeds adds nothing. -/

namespace Sys2Proof.Machine

/-- A byte stored over and over is every byte of the sequence, and `erasedByte` stands beyond its end. -/
theorem getD_rep_erased (n k : Nat) : (rep erasedByte n).getD k erasedByte = erasedByte := by
  simp [rep, List.getD_eq_getElem?_getD, List.getElem?_replicate]
  split <;> rfl

/-- After a failed or interrupted request a byte is new exactly inside the range and where the draw says so (R105). -/
theorem RgnRequest.read_applyPartial_eq {m : Memory} (hm : m.wf) (q : RgnRequest) (draw a : Nat) :
    (q.applyPartial draw m).read a =
      if q.off ≤ a ∧ a < q.off + q.newBytes.length ∧ draw.testBit (a - q.off) = true then
        q.newBytes.getD (a - q.off) erasedByte
      else m.read a := by
  rw [RgnRequest.read_applyPartial hm]
  simp only [← and_assoc, ite_and]

/-- An erase leaves `0xFF` all over its range (R102). -/
theorem RgnRequest.read_apply_erase {m : Memory} (hm : m.wf) (off cnt a : Nat) :
    ((RgnRequest.erase off cnt).apply m).read a = if off ≤ a ∧ a < off + cnt then erasedByte else m.read a := by
  rw [RgnRequest.read_apply hm]
  simp only [RgnRequest.newBytes, RgnRequest.off, length_rep, getD_rep_erased]

theorem RgnRequest.read_applyPartial_erase {m : Memory} (hm : m.wf) (off cnt draw a : Nat) :
    ((RgnRequest.erase off cnt).applyPartial draw m).read a =
      if off ≤ a ∧ a < off + cnt ∧ draw.testBit (a - off) = true then erasedByte else m.read a := by
  rw [RgnRequest.read_applyPartial_eq hm]
  simp only [RgnRequest.newBytes, RgnRequest.off, length_rep, getD_rep_erased]

/-- A request that succeeds, made again, leaves what it left (R61). -/
theorem RgnRequest.apply_apply {m : Memory} (hm : m.wf) (q : RgnRequest) : q.apply (q.apply m) = q.apply m := by
  have hq := q.apply_wf hm
  refine Memory.ext_read (q.apply_wf hq) hq fun a => ?_
  rw [RgnRequest.read_apply hq]
  split
  · next ha => rw [RgnRequest.read_apply hm, if_pos ha]
  · rfl

theorem RgnRequest.applyPartial_congr {q q' : RgnRequest} (hoff : q.off = q'.off) (hnew : q.newBytes = q'.newBytes)
    (draw : Nat) (m : Memory) : q.applyPartial draw m = q'.applyPartial draw m := by
  simp only [RgnRequest.applyPartial, hoff, hnew]

/-- Two requests of one range that store the same bytes and return the same are one transaction, if answered. -/
theorem regionTransaction_congr {q q' : RgnRequest} {s : State} (hoff : q.off = q'.off) (hcnt : q.cnt = q'.cnt)
    (hnew : q.newBytes = q'.newBytes) (hdata : q.data s.rgn = q'.data s.rgn) (ha : s.answerTo q ≠ .never) :
    regionTransaction q s = regionTransaction q' s := by
  have hrange : q'.inRange s.cfg = q.inRange s.cfg := by simp only [RgnRequest.inRange, hoff, hcnt]
  have hans : s.answerTo q' = s.answerTo q := by simp only [State.answerTo, hcnt]
  obtain ⟨hb, e⟩ | ⟨hb, hq, e⟩ | ⟨hb, hq, ha', e⟩ | ⟨hb, hq, draw, ha', e⟩ | ⟨_, _, hnever, _⟩ :=
    regionTransaction_cases q s
  · rw [e, regionTransaction_busy hb]
  · rw [e, regionTransaction_outOfRange hb (hrange.trans hq)]
  · rw [e, regionTransaction_ok hb (hrange.trans hq) (hans.trans ha'), hdata, RgnRequest.apply,
      RgnRequest.apply, hoff, hnew]
  · rw [e, regionTransaction_fail hb (hrange.trans hq) (hans.trans ha'), RgnRequest.applyPartial_congr hoff hnew]
  · exact absurd hnever ha

/-- What a request on the region port leaves when it succeeds. -/
def State.answered (s : State) (q : RgnRequest) : State :=
  (s.popAnswer.setRgn (q.apply s.rgn)).reply (.region true (q.data s.rgn))

/-- Two requests of which the platform lets both succeed. -/
theorem regionTransaction_two {q q' : RgnRequest} {s : State} (hb : s.busy = false) (hok : s.okFor 2)
    (hq : q.inRange s.cfg = true) (hq' : q'.inRange s.cfg = true) :
    regionTransaction q s = s.answered q ∧
      regionTransaction q' (s.answered q) = (s.answered q).answered q' := by
  have hnext : (s.answered q).nextAnswer = .ok :=
    (State.okFor.drop (k := 1) 1 hok List.drop_one.symm : (s.answered q).okFor (0 + 1)).nextAnswer
  exact ⟨regionTransaction_ok hb hq (State.answerTo_ok.2 (.inr hok.nextAnswer)),
    regionTransaction_ok (s := s.answered q) hb hq' (State.answerTo_ok.2 (.inr hnext))⟩

theorem RgnRequest.inRange_false {c : Config} {q : RgnRequest} (h : c.regionSize < q.off + q.cnt) :
    q.inRange c = false := by
  simpa [RgnRequest.inRange] using h

theorem toNat_ne_zero_of_ne {cnt : Word} (h : cnt ≠ 0) : cnt.toNat ≠ 0 :=
  fun h0 => h (BitVec.eq_of_toNat_eq h0)

/-- A region read, once or never answered, leaves the region (R100, R61). -/
theorem regionTransaction_read_rgn (off cnt : Nat) (s : State) :
    (regionTransaction (.read off cnt) s).rgn = s.rgn := by
  obtain ⟨_, e⟩ | ⟨_, _, e⟩ | ⟨_, _, _, e⟩ | ⟨_, _, _, _, e⟩ | ⟨_, _, _, e⟩ :=
    regionTransaction_cases (.read off cnt) s <;> rw [e] <;> rfl

/-- Every choice of old or new is some draw's: the number with the choice for its bits (R105, R236). -/
theorem exists_draw (choice : Nat → Bool) (n : Nat) : ∃ draw : Nat, ∀ k < n, draw.testBit k = choice k :=
  ⟨Nat.ofBits fun i : Fin n => choice i, fun k hk => Nat.testBit_ofBits_lt _ k hk⟩

end Sys2Proof.Machine
end

section
open Sys2Proof Sys2Proof.Machine

/-- Settles O13: the draw is the number whose bits are the choice. -/
theorem everyPerByteMixIsAdmitted : Obligations.EveryPerByteMixIsAdmitted := by
  intro q m choice hm
  obtain ⟨draw, hdraw⟩ := exists_draw choice q.newBytes.length
  refine ⟨draw, fun k hk => ?_⟩
  rw [RgnRequest.read_applyPartial hm, if_pos (by omega), Nat.add_sub_cancel_left, hdraw k hk]
  rfl

/-- Settles O30: a read is one of the transactions, and stores no byte under any answer. -/
theorem rgnReadResult : Obligations.RgnReadResult := by
  refine ⟨fun _ _ => rfl, fun s off cnt hb hout => ?_, fun s off cnt draw hb hcnt hin ha => ?_,
    fun s off cnt hb hin ha => ?_⟩
  · exact congrArg Host.Outcome.next (regionTransaction_outOfRange hb (RgnRequest.inRange_false hout))
  · exact congrArg Host.Outcome.next (regionTransaction_fail hb (RgnRequest.inRange_iff.2 hin)
      ((s.answerTo_pos (q := .read off.toNat cnt.toNat) (toNat_ne_zero_of_ne hcnt)).trans ha))
  · have hans : s.answerTo (.read off.toNat cnt.toNat) = .ok :=
      State.answerTo_ok.2 (ha.imp_left (congrArg BitVec.toNat))
    refine ⟨s.rgn.readBytes off.toNat cnt.toNat, Memory.length_readBytes _ _ _, fun k hk => ?_, ?_⟩
    · rw [Memory.getElem?_readBytes, if_pos hk]
    · exact congrArg Host.Outcome.next (regionTransaction_ok hb (RgnRequest.inRange_iff.2 hin) hans)

/-- Settles O31: a program is one of the transactions; the reads after it are those of a program or a mix. -/
theorem rgnProgResult : Obligations.RgnProgResult := by
  refine ⟨fun _ _ => rfl, fun s off wdata hb hout => ?_, fun s off wdata draw hb hm hne hin ha => ?_,
    fun s off wdata hb hm hin ha => ?_⟩
  · exact congrArg Host.Outcome.next (regionTransaction_outOfRange hb (RgnRequest.inRange_false hout))
  · have hcnt : (RgnRequest.prog off.toNat wdata).cnt ≠ 0 := fun h => hne (List.length_eq_zero_iff.1 h)
    exact ⟨_, RgnRequest.read_applyPartial_eq hm (.prog off.toNat wdata) draw, congrArg Host.Outcome.next
      (regionTransaction_fail hb (RgnRequest.inRange_iff.2 hin) ((s.answerTo_pos hcnt).trans ha))⟩
  · have hans : s.answerTo (.prog off.toNat wdata) = .ok :=
      State.answerTo_ok.2 (ha.imp_left List.length_eq_zero_iff.2)
    exact ⟨_, RgnRequest.read_apply hm (.prog off.toNat wdata), congrArg Host.Outcome.next
      (regionTransaction_ok hb (RgnRequest.inRange_iff.2 hin) hans)⟩

/-- Settles O32: an erase is one of the transactions, and the program of as many bytes 0xFF when it is answered. -/
theorem rgnEraseResult : Obligations.RgnEraseResult := by
  refine ⟨fun _ _ => rfl, fun s off cnt hb hout => ?_, fun s off cnt draw hb hm hcnt hin ha => ?_,
    fun s off cnt hb hm hin ha => ?_, fun s off cnt ha => ?_⟩
  · exact congrArg Host.Outcome.next (regionTransaction_outOfRange hb (RgnRequest.inRange_false hout))
  · have hans := (s.answerTo_pos (q := .erase off.toNat cnt.toNat) (toNat_ne_zero_of_ne hcnt)).trans ha
    exact ⟨_, RgnRequest.read_applyPartial_erase hm off.toNat cnt.toNat draw, congrArg Host.Outcome.next
      (regionTransaction_fail hb (RgnRequest.inRange_iff.2 hin) hans)⟩
  · have hans : s.answerTo (.erase off.toNat cnt.toNat) = .ok :=
      State.answerTo_ok.2 (ha.imp_left (congrArg BitVec.toNat))
    exact ⟨_, RgnRequest.read_apply_erase hm off.toNat cnt.toNat, congrArg Host.Outcome.next
      (regionTransaction_ok hb (RgnRequest.inRange_iff.2 hin) hans)⟩
  · have hans : s.answerTo (.erase off.toNat cnt.toNat) ≠ .never := by
      by_cases hcnt : cnt = 0
      · rw [s.answerTo_empty (q := .erase off.toNat cnt.toNat) (congrArg BitVec.toNat hcnt)]
        decide
      · rw [s.answerTo_pos (q := .erase off.toNat cnt.toNat) (toNat_ne_zero_of_ne hcnt)]
        exact ha.resolve_left hcnt
    exact congrArg Host.Outcome.next (regionTransaction_congr rfl (length_rep _ _).symm rfl rfl hans)

/-- Settles O33: the read finds the program's bytes in the region the program left. -/
theorem readReturnsProgrammedBytes : Obligations.ReadReturnsProgrammedBytes := by
  intro s off wdata hb hm hok hlen hin
  have hcnt : (BitVec.ofNat 32 wdata.length).toNat = wdata.length := by
    rw [BitVec.toNat_ofNat, Nat.mod_eq_of_lt hlen]
  obtain ⟨hprog, hread⟩ := regionTransaction_two (q := .prog off.toNat wdata)
    (q' := .read off.toNat wdata.length) hb hok (RgnRequest.inRange_iff.2 hin) (RgnRequest.inRange_iff.2 hin)
  refine ⟨s.answered (.prog off.toNat wdata),
    (s.answered (.prog off.toNat wdata)).answered (.read off.toNat wdata.length),
    congrArg Host.Outcome.next hprog, ?_, ?_, rfl⟩
  · rw [exec, execRgnRead, hcnt, hread]
  · exact congrArg (fun data => some (Response.region true data)) (Memory.readBytes_program hm _ _)

/-- Settles O34: a program or erase writes the bytes that stand there, a read writes none. -/
theorem regionRequestIsIdempotent : Obligations.RegionRequestIsIdempotent := by
  refine ⟨fun s off cnt wdata i hb hm hok hi => ?_, fun s off cnt => ?_, fun _ _ _ => rfl,
    fun s off cnt hb hok => ?_⟩
  · have htwo : ∀ q : RgnRequest, q.inRange s.cfg = true → _ := fun q hq => regionTransaction_two hb hok hq hq
    obtain ⟨rfl, hin⟩ | ⟨rfl, hin⟩ := hi
    · obtain ⟨h1, h2⟩ := htwo (.prog off.toNat wdata) (RgnRequest.inRange_iff.2 hin)
      exact ⟨_, _, congrArg Host.Outcome.next h1, congrArg Host.Outcome.next h2, RgnRequest.apply_apply hm _, rfl, rfl⟩
    · obtain ⟨h1, h2⟩ := htwo (.erase off.toNat cnt.toNat) (RgnRequest.inRange_iff.2 hin)
      exact ⟨_, _, congrArg Host.Outcome.next h1, congrArg Host.Outcome.next h2, RgnRequest.apply_apply hm _, rfl, rfl⟩
  · exact ⟨_, rfl, regionTransaction_read_rgn _ _ s⟩
  · cases hq : (RgnRequest.read off.toNat cnt.toNat).inRange s.cfg with
    | true =>
      obtain ⟨h1, h2⟩ := regionTransaction_two hb hok hq hq
      exact ⟨_, _, congrArg Host.Outcome.next h1, congrArg Host.Outcome.next h2, rfl⟩
    | false =>
      have h1 := regionTransaction_outOfRange hb hq
      have h2 := regionTransaction_outOfRange (s := s.reply (.region false [])) hb hq
      exact ⟨_, _, congrArg Host.Outcome.next h1, congrArg Host.Outcome.next h2, rfl⟩

end

section
/-! What a step is (spec 43_block_store.md R160, 70_reset_and_hazards.md R230, R241): the next input of an idle machine,
the first reset of a busy one, a wait, or a refusal by name. -/

namespace Sys2Proof.Machine

variable {s t : State}

theorem State.busy_of_inflight {q : RgnRequest} (h : s.inflight = some q) : s.busy = true := by
  simp [State.busy, h]

/-- A reset is found in front of an idle machine's inputs or behind a busy machine's (R230). -/
theorem State.pending_eq_reset {draw : Nat} {rest : List Input}
    (h : s.busy = false ∧ s.inputs = .reset draw :: rest ∨
      s.busy = true ∧ firstReset s.inputs = some (draw, rest)) : s.pending = .reset draw rest := by
  obtain ⟨hb, hin⟩ | ⟨hb, hin⟩ := h
  · simp [State.pending, hb, State.pendingIdle, hin]
  · simp [State.pending, hb, State.pendingBusy, hin]

/-- Only an idle machine takes a request (R160). -/
theorem State.of_pending_request {r : Request} {rest : List Input} (h : s.pending = .request r rest) :
    s.busy = false ∧ s.inputs = .request r :: rest := by
  cases hb : s.busy with
  | true =>
    obtain ⟨_, _, _, e⟩ | ⟨_, _, e⟩ | ⟨_, _, e⟩ := State.pending_busy hb <;> exact nomatch e.symm.trans h
  | false =>
    obtain ⟨_, e⟩ | ⟨_, _, _, e⟩ | ⟨_, _, _, e⟩ | ⟨r', rest', hin, e⟩ := State.pending_idle hb
    · exact nomatch e.symm.trans h
    · exact nomatch e.symm.trans h
    · exact nomatch e.symm.trans h
    · cases e.symm.trans h
      exact ⟨rfl, hin⟩

/-- A machine has lost its sequencer only where a command runs with nothing in flight (R241). -/
theorem State.of_pending_lost (h : s.pending = .lost) : s.seq.running = true ∧ s.inflight = none := by
  cases hb : s.busy with
  | true =>
    obtain ⟨_, _, _, e⟩ | ⟨_, _, e⟩ | ⟨_, hi, _⟩ := State.pending_busy hb
    · exact nomatch e.symm.trans h
    · exact nomatch e.symm.trans h
    · simp only [State.busy, hi, Option.isSome_none, Bool.or_false] at hb
      exact ⟨hb, hi⟩
  | false =>
    obtain ⟨_, e⟩ | ⟨_, _, _, e⟩ | ⟨_, _, _, e⟩ | ⟨_, _, _, e⟩ := State.pending_idle hb <;>
      exact nomatch e.symm.trans h

theorem step_reset {draw : Nat} {rest : List Input} (hl : s.cfg.legal = true) (h : s.pending = .reset draw rest) :
    step s = .next ((s.withInputs rest).resetBy draw) := by
  simp [step, hl, h]

theorem step_platform {q : RgnRequest} {rest : List Input} (hl : s.cfg.legal = true) (hb : s.busy = false)
    (hin : s.inputs = .platform q :: rest) : step s = .next ((s.withInputs rest).platformAccess q) := by
  simp [step, hl, State.pending, hb, State.pendingIdle, hin]

theorem State.platformAccess_inRange {q : RgnRequest} (hq : q.inRange s.cfg = true) :
    s.platformAccess q = s.setRgn (q.apply s.rgn) := if_pos hq

/-- With a request in flight and no reset to come the machine waits (R241). -/
theorem step_wait (hl : s.cfg.legal = true) (hi : s.inflight.isSome = true) (hr : firstReset s.inputs = none) :
    step s = .next s := by
  have hb : s.busy = true := by simp [State.busy, hi]
  simp [step, hl, State.pending, hb, State.pendingBusy, hr, hi]

/-- A busy machine leaves its state by a reset only (R230, R241). -/
theorem step_busy_next (hb : s.busy = true) (ht : step s = .next t) :
    t = s ∨ ∃ draw rest, firstReset s.inputs = some (draw, rest) ∧ t = (s.withInputs rest).resetBy draw := by
  unfold step at ht
  split at ht
  · obtain ⟨draw, rest, hr, e⟩ | ⟨_, _, e⟩ | ⟨_, _, e⟩ := State.pending_busy hb
    · rw [e] at ht
      cases ht
      exact .inr ⟨draw, rest, hr, rfl⟩
    · rw [e] at ht
      cases ht
      exact .inl rfl
    · rw [e] at ht
      cases ht
  · cases ht

/-- The name under which an internal port refuses a request (R81, R90). -/
theorem rejectRequest_refused {p : Port} {e : DecodeError} {why : Refusal} :
    rejectRequest p e s = .refused why ↔
      p ≠ .store ∧ why = if p = .region ∧ e = .wdataLength then .wdataLength else .unmatchedHeader := by
  cases p with
  | store | crc | codec => simp [rejectRequest, eq_comm]
  | region => cases e <;> simp [rejectRequest, eq_comm]

/-- Performing refuses exactly the undecodable requests of the internal ports (R81, R90). -/
theorem perform_refused {r : Request} {why : Refusal} :
    perform r s = .refused why ↔ ∃ e, decode r = .error e ∧ r.port ≠ .store ∧
      (why = .wdataLength ∧ e = .wdataLength ∨ why = .unmatchedHeader ∧ e ≠ .wdataLength) := by
  unfold perform
  cases hd : decode r with
  | ok i =>
    obtain ⟨t, ht⟩ := exec_next i s
    simp [ht]
  | error e =>
    have hregion : e = .wdataLength → r.port = .region := fun he => decode_wdataLength_port (he ▸ hd)
    simp only [rejectRequest_refused, Except.error.injEq, exists_eq_left']
    refine and_congr_right fun _ => ?_
    by_cases he : e = .wdataLength
    · simp [he, hregion he]
    · simp [he]

end Sys2Proof.Machine
end

section
open Sys2Proof Sys2Proof.Machine

/-- Settles O9: the values of R40 stand in `State.reset`, whose region lists no byte. -/
theorem resetHoldsSpecValues : Obligations.ResetHoldsSpecValues :=
  ⟨rfl, rfl, rfl, rfl, rfl, fun _ => rfl⟩

/-- Settles O11: an idle machine finds the reset in front of its inputs, a busy one behind them. -/
theorem resetWritesControlRegisters : Obligations.ResetWritesControlRegisters := by
  intro s draw rest hlegal hreset
  refine ⟨_, step_reset hlegal (State.pending_eq_reset hreset), rfl, rfl, rfl, rfl, rfl, rfl, rfl, rfl, rfl, rfl,
    fun hi => ?_⟩
  simp only [State.resetBy, State.withInputs_inflight, hi, State.withInputs_rgn]

/-- Settles O12: the reset applies the request in flight by the draw. -/
theorem interruptedRequestLeavesMix : Obligations.InterruptedRequestLeavesMix := by
  intro s draw rest q hlegal hm hq hreset
  have hpending := State.pending_eq_reset (.inr ⟨State.busy_of_inflight hq, hreset⟩)
  refine ⟨_, step_reset hlegal hpending, fun a => ?_⟩
  have hrgn : ((s.withInputs rest).resetBy draw).rgn = q.applyPartial draw s.rgn := by
    simp only [State.resetBy, State.withInputs_inflight, hq, State.withInputs_rgn]
  rw [hrgn]
  cases q with
  | read off cnt => rfl
  | prog off bytes => exact RgnRequest.read_applyPartial_eq hm (.prog off bytes) draw a
  | erase off cnt => exact RgnRequest.read_applyPartial_erase hm off cnt draw a

/-- Settles O35: an unanswered request stays in flight, and a busy machine takes nothing but a reset. -/
theorem unansweredRequestWaits : Obligations.UnansweredRequestWaits := by
  refine ⟨fun s off cnt hb hcnt hin ha => ?_, fun s off wdata hb hne hin ha => ?_,
    fun s hlegal hi hr => step_wait hlegal hi hr, fun s bufp n wdata off cnt hb => ?_⟩
  · have hnever : ∀ q : RgnRequest, q.off = off.toNat → q.cnt = cnt.toNat →
        regionTransaction q s = s.popAnswer.await q := fun q ho hc =>
      regionTransaction_never hb (RgnRequest.inRange_iff.2 (by rw [ho, hc]; exact hin))
        ((s.answerTo_pos (by rw [hc]; exact toNat_ne_zero_of_ne hcnt)).trans ha)
    exact ⟨congrArg Host.Outcome.next (hnever _ rfl rfl), congrArg Host.Outcome.next (hnever _ rfl rfl)⟩
  · have hcnt : (RgnRequest.prog off.toNat wdata).cnt ≠ 0 := fun h => hne (List.length_eq_zero_iff.1 h)
    exact congrArg Host.Outcome.next (regionTransaction_never hb (RgnRequest.inRange_iff.2 hin)
      ((s.answerTo_pos hcnt).trans ha))
  · exact ⟨congrArg Host.Outcome.next (storeCommand_busy hb), congrArg Host.Outcome.next (storeCommand_busy hb),
      congrArg Host.Outcome.next (regionTransaction_busy hb), congrArg Host.Outcome.next (regionTransaction_busy hb),
      congrArg Host.Outcome.next (regionTransaction_busy hb)⟩

/-- Settles O56: performing a request that decodes is executing it. -/
theorem stepRunsDecodedInstruction : Obligations.StepRunsDecodedInstruction := by
  intro s r rest i hlegal hb hin hd
  rw [step_request hlegal hb hin, perform, hd]
  rfl

/-- Settles O57: past the configuration a step refuses what performing the next request refuses. -/
theorem refusedExactly : Obligations.RefusedExactly := by
  intro s why
  constructor
  · intro h
    obtain ⟨hl, e⟩ | ⟨hl, ⟨_, e⟩ | ⟨_, _, _, e⟩ | ⟨_, _, _, e⟩ | ⟨r, rest, hp, e⟩ | ⟨_, e⟩⟩ := step_cases s
    all_goals rw [e] at h
    · cases h
      exact .inl ⟨rfl, hl⟩
    · cases h
    · cases h
    · cases h
    · obtain ⟨hb, hin⟩ := State.of_pending_request hp
      obtain ⟨err, hdec, hport, hwhy⟩ := perform_refused.1 h
      exact .inr ⟨hl, hb, r, rest, err, hin, hdec, hport, hwhy⟩
    · cases h
  · rintro (⟨rfl, hl⟩ | ⟨hl, hb, r, rest, err, hin, hdec, hport, hwhy⟩)
    · simp [step, hl]
    · rw [step_request hl hb hin]
      exact perform_refused.2 ⟨err, hdec, hport, hwhy⟩

/-- Settles O58: an idle machine lets the platform's access through, a busy one leaves by a reset only. -/
theorem platformMovesBetweenCommands : Obligations.PlatformMovesBetweenCommands := by
  refine ⟨fun s q rest hlegal hb hm hin hq => ?_, fun s t hb ht => ?_⟩
  · refine ⟨q.apply s.rgn, ?_, RgnRequest.read_apply hm q⟩
    rw [step_platform hlegal hb hin, State.platformAccess_inRange (s := s.withInputs rest) hq]
    rfl
  · obtain rfl | ⟨draw, rest, hr, rfl⟩ := step_busy_next hb ht
    · exact .inl rfl
    · exact .inr ⟨draw, rest, hr, rfl⟩

end

section
/-! The CRC unit (spec 41_crc.md): the table form of the update step, and what one changed byte does to a checksum. The
step is one to one in the register and in the byte, so a changed byte is never lost (R127). -/

namespace Sys2Proof.Machine

/-- A word is its low byte and the rest of its bits. -/
theorem lowByte_xor_shiftLeft (x : Word) : (x.setWidth 8).setWidth 32 ^^^ ((x >>> 8) <<< 8) = x := by
  refine BitVec.eq_of_getLsbD_eq fun i hi => ?_
  by_cases h : i < 8
  · simp [h, hi]
  · simp [h, hi, Nat.add_sub_cancel' (Nat.le_of_not_lt h)]

/-- Eight iterations look the low byte up and shift the rest (R126). -/
theorem crcBits_eight (x : Word) : crcBits 8 x = crcTable (x.setWidth 8) ^^^ (x >>> 8) := by
  have hshift : crcBits 8 ((x >>> 8) <<< 8) = x >>> 8 := by
    rw [crcBits_shift 8 _ fun i hi => by simp [hi]]
    refine BitVec.eq_of_getLsbD_eq fun i _ => ?_
    by_cases h : 8 + i < 32
    · simp [h]
    · simp [h, BitVec.getLsbD_of_ge x (8 + i) (by omega)]
  calc crcBits 8 x = crcBits 8 ((x.setWidth 8).setWidth 32 ^^^ ((x >>> 8) <<< 8)) := by
        rw [lowByte_xor_shiftLeft]
    _ = crcTable (x.setWidth 8) ^^^ (x >>> 8) := by rw [crcBits_xor, hshift]; rfl

/-- A byte has nothing above its eight bits. -/
theorem xor_byte_shiftRight (c : Word) (b : Byte) : (c ^^^ b.setWidth 32) >>> 8 = c >>> 8 := by
  refine BitVec.eq_of_getLsbD_eq fun i _ => ?_
  simp

theorem crcStep_eq_table (c : Word) (b : Byte) :
    crcStep c b = crcTable ((c ^^^ b.setWidth 32).setWidth 8) ^^^ (c >>> 8) := by
  rw [crcStep, crcBits_eight, xor_byte_shiftRight]

/-- The step loses nothing of the register. -/
theorem crcStep_left_inj {c c' : Word} {b : Byte} (h : crcStep c b = crcStep c' b) : c = c' :=
  BitVec.xor_left_inj _ |>.1 (crcBits_inj h)

/-- The step loses nothing of the byte. -/
theorem crcStep_right_inj {c : Word} {b b' : Byte} (h : crcStep c b = crcStep c b') : b = b' := by
  have hwide : b.setWidth 32 = b'.setWidth 32 := BitVec.xor_right_inj _ |>.1 (crcBits_inj h)
  simpa using congrArg (BitVec.setWidth 8) hwide

theorem foldl_crcStep_inj {c c' : Word} (bs : List Byte) (h : bs.foldl crcStep c = bs.foldl crcStep c') : c = c' := by
  induction bs generalizing c c' with
  | nil => exact h
  | cons b bs ih => exact crcStep_left_inj (ih h)

/-- Changing one byte changes the checksum, whatever the byte becomes. -/
theorem crc32_set_ne {bs : List Byte} {k : Nat} {b : Byte} (hk : k < bs.length) (hb : b ≠ bs[k]) :
    crc32 (bs.set k b) ≠ crc32 bs := by
  intro h
  have hrun : crcRun (bs.set k b) = crcRun bs := BitVec.xor_left_inj _ |>.1 h
  have hsplit : bs = bs.take k ++ bs[k] :: bs.drop (k + 1) := by
    rw [← List.drop_eq_getElem_cons hk, List.take_append_drop]
  rw [List.set_eq_take_append_cons_drop, if_pos hk] at hrun
  conv at hrun => rhs; rw [hsplit]
  simp only [crcRun, List.foldl_append, List.foldl_cons] at hrun
  exact hb (crcStep_right_inj (foldl_crcStep_inj _ hrun))

/-- Flipping a bit changes its byte. -/
theorem xor_twoPow_ne (b : Byte) {i : Nat} (hi : i < 8) : b ^^^ BitVec.twoPow 8 i ≠ b := by
  intro h
  have hbit := congrArg (fun v : Byte => v.getLsbD i) h
  simp [hi] at hbit

/-- Flipping a bit changes the byte it stands in (R127). -/
theorem flipBit_eq_set {bs : List Byte} {k : Nat} (hk : k < 8 * bs.length) :
    ∃ b, ∃ hbyte : k / 8 < bs.length, flipBit bs k = bs.set (k / 8) b ∧ b ≠ bs[k / 8] := by
  have hbyte : k / 8 < bs.length := by omega
  refine ⟨_, hbyte, rfl, ?_⟩
  rw [List.getD_eq_getElem?_getD, List.getElem?_eq_getElem hbyte]
  exact xor_twoPow_ne _ (Nat.mod_lt _ (by decide))

/-- CRC.BYTE once `crc` has been written (R122). -/
theorem exec_crcByte_written {s : State} (hw : s.written.crc = true) (b : Byte) :
    exec (.crcByte b) s = .next { s with
      crc := crcStep s.crc b, written := { s.written with crc := true }, resp := some .done } := by
  show Host.Outcome.next { s with
    crc := crcStep s.crc b, written := { s.written with crc := true }
    testFault := s.testFault || !s.written.crc, resp := some .done } = _
  rw [hw]
  simp

/-- CRC.BYTE for each byte, then CRC.FINAL, in a run that has begun (R128). -/
theorem execAll_crcBytes_final (bs : List Byte) (s : State) (hw : s.written.crc = true) :
    execAll (bs.map .crcByte ++ [.crcFinal]) s = .next { s with
      crc := bs.foldl crcStep s.crc
      written := { s.written with crc := true }
      resp := some (.value (bs.foldl crcStep s.crc ^^^ crcXorOut)) } := by
  induction bs generalizing s with
  | nil =>
    show Host.Outcome.next { s with
      testFault := s.testFault || !s.written.crc, resp := some (.value (s.crc ^^^ crcXorOut)) } = _
    have hwritten : s.written = { s.written with crc := true } := by rw [← hw]
    rw [← hwritten, hw]
    simp
  | cons b bs ih =>
    simp only [List.map_cons, List.cons_append, execAll, exec_crcByte_written hw]
    rw [ih _ rfl]
    rfl

end Sys2Proof.Machine
end

section
open Sys2Proof Sys2Proof.Machine

/-- Settles O14: setting `crc` and the answer. -/
theorem crcInitResult : Obligations.CrcInitResult :=
  ⟨rfl, fun _ => rfl⟩

/-- Settles O15: the header carries the byte, and the step is the only register write. -/
theorem crcByteResult : Obligations.CrcByteResult :=
  ⟨fun n => (textualFormHeaders n).1, fun _ _ => rfl⟩

/-- Settles O16: `crc` is read, not written. -/
theorem crcFinalResult : Obligations.CrcFinalResult :=
  ⟨rfl, fun _ => rfl⟩

/-- Settles O17: the iterations are linear, and where the low byte is zero they only shift. -/
theorem crcStepHasTableForm : Obligations.CrcStepHasTableForm := by
  refine ⟨crcStep_eq_table, fun n => ?_, by decide⟩
  exact congrArg (crcBits 8) BitVec.xor_zero.symm

/-- Settles O18: CRC.INIT begins the run the bytes go on with. -/
theorem crcSequenceComputesCrc32 : Obligations.CrcSequenceComputesCrc32 := by
  intro bs s
  refine (execAll_crcBytes_final bs ((s.setCrc crcInitValue).reply .done) rfl).trans ?_
  show Host.Outcome.next { s with
    crc := crcRun bs, written := { s.written with crc := true }, resp := some (.value (crc32 bs)) } = _
  rw [crcRun_eq]

/-- Settles O19: the byte of the flipped bit changes, and the step is one to one. -/
theorem crcDetectsSingleBit : Obligations.CrcDetectsSingleBit := by
  intro bs k hk
  obtain ⟨b, hbyte, hflip, hb⟩ := flipBit_eq_set hk
  rw [hflip]
  exact crc32_set_ne hbyte hb

/-- Settles O20: both checksums are computed. -/
theorem crcCheckValues : Obligations.CrcCheckValues := by
  unfold Obligations.CrcCheckValues
  decide +kernel

end

section
/-! The record image (spec 42_codec.md R140 to R150): where each field stands in it, so that the codec's two functions
are inverse, and that a checksum covers every byte before it and no other. -/

namespace Sys2Proof

/-! ### Slices -/

theorem getElem?_slice (bs : List Byte) (a b k : Nat) :
    (slice bs a b)[k]? = if k < b - a then bs[a + k]? else none := by
  rw [slice, List.getElem?_take, List.getElem?_drop]

/-- A middle part of a sequence, cut out at its own bounds. -/
theorem slice_middle (pre mid post : List Byte) {a b : Nat} (ha : pre.length = a) (hb : a + mid.length = b) :
    slice (pre ++ mid ++ post) a b = mid := by
  subst ha hb
  simp [slice, List.append_assoc]

theorem slice_append_slice (bs : List Byte) {a b c : Nat} (hab : a ≤ b) (hbc : b ≤ c) :
    slice bs a b ++ slice bs b c = slice bs a c := by
  simp only [slice]
  rw [show c - a = (b - a) + (c - b) by omega, List.take_add, List.drop_drop, show a + (b - a) = b by omega]

theorem slice_zero (bs : List Byte) (n : Nat) : slice bs 0 n = bs.take n := by
  simp [slice]

/-! ### Four-byte words -/

/-- `int32` inverts `unint32` on every four bytes (R14). -/
theorem int32_unint32_of_length (e : Endian) {bs : List Byte} (h : bs.length = 4) : int32 e (unint32 e bs) = bs := by
  obtain ⟨a, b, c, d, rfl⟩ : ∃ a b c d, bs = [a, b, c, d] := by
    match bs, h with
    | [a, b, c, d], _ => exact ⟨a, b, c, d, rfl⟩
  exact int32_unint32 e a b c d

theorem unint32_inj (e : Endian) {bs bs' : List Byte} (h : bs.length = 4) (h' : bs'.length = 4)
    (heq : unint32 e bs = unint32 e bs') : bs = bs' := by
  rw [← int32_unint32_of_length e h, heq, int32_unint32_of_length e h']

/-- The byte of a word at image position `k` (R14, R56). -/
def wordByte (e : Endian) (v : Word) (k : Nat) : Byte :=
  match e with
  | .little => v.extractLsb' (8 * k) 8
  | .big => v.extractLsb' (24 - 8 * k) 8

theorem getElem?_int32 (e : Endian) (v : Word) {k : Nat} (hk : k < 4) : (int32 e v)[k]? = some (wordByte e v k) := by
  cases e <;> interval_cases k <;> rfl

/-! ### The image of a record -/

variable {c : Config} {r : Record} {bs : List Byte}

/-- Where the five fields stand in an image (R140, R142). -/
theorem slices_encodeRecord (h : r.sized c = true) :
    slice (encodeRecord c r) 0 4 = int32 c.endian r.blockId ∧
    slice (encodeRecord c r) 4 12 = r.payloadA ∧
    slice (encodeRecord c r) 12 20 = r.payloadB ∧
    slice (encodeRecord c r) 20 c.csOff = r.reserved ∧
    slice (encodeRecord c r) c.csOff (c.csOff + 4) = int32 c.endian r.checksum := by
  obtain ⟨ha, hb, hr⟩ := Record.sized_iff.1 h
  have hcs := Config.csOff_eq c
  refine ⟨?_, ?_, ?_, ?_, ?_⟩
  · simpa [encodeRecord] using slice_middle [] (int32 c.endian r.blockId)
      (r.payloadA ++ r.payloadB ++ r.reserved ++ int32 c.endian r.checksum) rfl (by simp)
  · simpa [encodeRecord] using slice_middle (int32 c.endian r.blockId) r.payloadA
      (r.payloadB ++ r.reserved ++ int32 c.endian r.checksum) (length_int32 _ _) (by omega)
  · simpa [encodeRecord] using slice_middle (int32 c.endian r.blockId ++ r.payloadA) r.payloadB
      (r.reserved ++ int32 c.endian r.checksum) (by simp [ha]) (by omega)
  · simpa [encodeRecord] using slice_middle (int32 c.endian r.blockId ++ r.payloadA ++ r.payloadB) r.reserved
      (int32 c.endian r.checksum) (by simp [ha, hb]) (by omega)
  · simpa [encodeRecord] using slice_middle (int32 c.endian r.blockId ++ r.payloadA ++ r.payloadB ++ r.reserved)
      (int32 c.endian r.checksum) [] (by simp [ha, hb]; omega) (by simp)

/-- Decoding undoes encoding (R149). -/
theorem decodeRecord_encodeRecord (h : r.sized c = true) : decodeRecord c (encodeRecord c r) = r := by
  obtain ⟨hid, ha, hb, hr, hcs⟩ := slices_encodeRecord h
  simp only [decodeRecord, hid, ha, hb, hr, hcs, unint32_int32]

/-- Encoding undoes decoding (R149). -/
theorem encodeRecord_decodeRecord (h : bs.length = c.recordSize) : encodeRecord c (decodeRecord c bs) = bs := by
  have hsize := Config.recordSize_eq c
  have hcs := Config.csOff_eq c
  have hid : (slice bs 0 4).length = 4 := by simp; omega
  have hsum : (slice bs c.csOff (c.csOff + 4)).length = 4 := by simp; omega
  simp only [encodeRecord, decodeRecord, int32_unint32_of_length c.endian hid,
    int32_unint32_of_length c.endian hsum]
  rw [slice_append_slice bs (by omega) (by omega), slice_append_slice bs (by omega) (by omega),
    slice_append_slice bs (by omega) (by omega), slice_append_slice bs (by omega) (by omega), slice_zero,
    List.take_of_length_le (by omega)]

/-! ### Checksums -/

namespace Machine

/-- A checksum does not depend on the checksum field (R148). -/
theorem covered_checksum (h : r.sized c = true) (v : Word) :
    covered c (encodeRecord c { r with checksum := v }) = covered c (encodeRecord c r) := by
  rw [covered_encodeRecord h, covered_encodeRecord (Record.sized_checksum h v)]

theorem recordCsum_checksum (h : r.sized c = true) (v : Word) :
    recordCsum c { r with checksum := v } = recordCsum c r := by
  simp only [recordCsum, covered_checksum h v]

/-- A sealed record is valid (R163). -/
theorem recordValid_sealedRecord (h : r.sized c = true) : recordValid c (sealedRecord c r) = true :=
  beq_iff_eq.2 (recordCsum_checksum h (recordCsum c r))

theorem recordCsum_decodeRecord (h : bs.length = c.recordSize) :
    recordCsum c (decodeRecord c bs) = crc32 (bs.take c.csOff) := by
  rw [recordCsum, encodeRecord_decodeRecord h, covered]

/-- Validity read off the image: its last four bytes are the checksum of the others (R148). -/
theorem recordValid_decodeRecord_iff (h : bs.length = c.recordSize) :
    recordValid c (decodeRecord c bs) = true ↔
      crc32 (bs.take c.csOff) = unint32 c.endian (bs.drop c.csOff) := by
  have hsum : slice bs c.csOff (c.csOff + 4) = bs.drop c.csOff :=
    List.take_of_length_le (by rw [List.length_drop, h, Config.csOff_add])
  rw [recordValid, beq_iff_eq, recordCsum_decodeRecord h, decodeRecord, hsum]

/-- Changing one byte of a valid image makes it invalid: either the covered bytes change or the stored checksum does
(R127, R147). -/
theorem recordValid_set (h : bs.length = c.recordSize) {k : Nat} {b : Byte} (hk : k < bs.length) (hb : b ≠ bs[k])
    (hv : recordValid c (decodeRecord c bs) = true) : recordValid c (decodeRecord c (bs.set k b)) = false := by
  rw [recordValid_decodeRecord_iff h] at hv
  rw [← Bool.not_eq_true, recordValid_decodeRecord_iff (by rwa [List.length_set])]
  intro hv'
  have hadd := Config.csOff_add c
  by_cases hcov : k < c.csOff
  · rw [List.drop_set_of_lt hcov, ← hv, List.take_set] at hv'
    exact crc32_set_ne (by rw [List.length_take]; omega) (by rwa [List.getElem_take]) hv'
  · rw [List.take_set_of_le (Nat.le_of_not_lt hcov), hv] at hv'
    have hdrop : bs.drop c.csOff = (bs.set k b).drop c.csOff :=
      unint32_inj c.endian (by rw [List.length_drop]; omega) (by rw [List.length_drop, List.length_set]; omega) hv'
    have hbyte := congrArg (fun l : List Byte => l[k - c.csOff]?) hdrop
    simp only [List.getElem?_drop, Nat.add_sub_cancel' (Nat.le_of_not_lt hcov), List.getElem?_set_self hk,
      List.getElem?_eq_getElem hk, Option.some.injEq] at hbyte
    exact hb hbyte.symm

/-- The record with ones in every field (R150). -/
def onesRecord (c : Config) : Record :=
  { blockId := 0xFFFFFFFF, payloadA := rep 0xFF 8, payloadB := rep 0xFF 8
    reserved := rep 0xFF c.reservedLen, checksum := 0xFFFFFFFF }

theorem encodeRecord_onesRecord (c : Config) : encodeRecord c (onesRecord c) = c.erasedImg := by
  have hones : int32 c.endian 0xFFFFFFFF = rep 0xFF 4 := by cases c.endian <;> decide
  simp only [encodeRecord, onesRecord, hones, rep, List.replicate_append_replicate]
  rfl

/-- The erased record has ones in every field (R150). -/
theorem erasedRecord_eq (c : Config) : c.erasedRecord = onesRecord c := by
  rw [Config.erasedRecord, ← encodeRecord_onesRecord, decodeRecord_encodeRecord]
  exact Record.sized_iff.2 ⟨length_rep _ _, length_rep _ _, length_rep _ _⟩

theorem recordCsum_erasedRecord (c : Config) : recordCsum c c.erasedRecord = erasedCsum c := by
  rw [Config.erasedRecord, recordCsum_decodeRecord (length_erasedImg c), erasedCsum, Config.erasedImg, rep,
    List.take_replicate, Nat.min_eq_left (by rw [Config.csOff_add]; omega), rep]

/-- `REINIT_REC` is the erased record, sealed (R150, R163). -/
theorem reinitRecord_eq_sealed (c : Config) : reinitRecord c = sealedRecord c c.erasedRecord := by
  rw [reinitRecord, sealedRecord, recordCsum_erasedRecord]

theorem erasedCsum_eq (c : Config) : erasedCsum c = crc32 (rep 0xFF (20 + c.reservedLen)) := by
  rw [erasedCsum, Config.csOff_eq]
  rfl

theorem crc32_ones_short : crc32 (rep 0xFF (20 + 0)) = 0x2CF772B0 := by
  decide +kernel

/-- The erased bytes of the reference record, in four runs that each evaluate alone. -/
theorem crc32_ones_reference : crc32 (rep 0xFF (20 + 256)) = 0x9D38A78C := by
  have hsplit : rep 0xFF (20 + 256) = rep 0xFF 69 ++ rep 0xFF 69 ++ rep 0xFF 69 ++ rep 0xFF 69 := by
    simp only [rep, List.replicate_append_replicate]
  have h1 : (rep 0xFF 69).foldl crcStep crcInitValue = 0xC976CC62 := by decide +kernel
  have h2 : (rep 0xFF 69).foldl crcStep 0xC976CC62 = 0xE0DEAF32 := by decide +kernel
  have h3 : (rep 0xFF 69).foldl crcStep 0xE0DEAF32 = 0x85B6AC51 := by decide +kernel
  have h4 : (rep 0xFF 69).foldl crcStep 0x85B6AC51 = 0x62C75873 := by decide +kernel
  rw [crc32, crcRun, hsplit, List.foldl_append, List.foldl_append, List.foldl_append, h1, h2, h3, h4]
  decide

/-- The erased record is not valid where its checksum is not all ones. -/
theorem recordValid_erasedRecord (h : erasedCsum c ≠ 0xFFFFFFFF) : recordValid c c.erasedRecord = false := by
  have hsum : c.erasedRecord.checksum = 0xFFFFFFFF := by rw [erasedRecord_eq, onesRecord]
  rw [recordValid, recordCsum_erasedRecord, hsum]
  exact beq_false_of_ne h

/-- `Seal` as one update, whatever has been written (R163). -/
theorem State.sealed_eq_update (s : State) : s.sealed = { s with
    record := sealedRecord s.cfg s.record
    img := encodeRecord s.cfg (sealedRecord s.cfg s.record)
    crc := crcRun (covered s.cfg (encodeRecord s.cfg s.record))
    written := { s.written with crc := true, record := true, img := true }
    testFault := s.testFault || !s.written.record } := by
  simp [State.sealed, State.recEnc, State.recCsum, State.setChecksum, State.setRecord, State.setCrc, State.setImg,
    State.noteRead, State.csumValue, sealedRecord, recordCsum]

end Machine

end Sys2Proof
end

section
open Sys2Proof Sys2Proof.Machine

/-- Settles O21: the five fields stand one after the other in an image and fill it. -/
theorem codecFunctionsAreInverse : Obligations.CodecFunctionsAreInverse :=
  ⟨fun _ _ => decodeRecord_encodeRecord, fun _ _ => encodeRecord_decodeRecord⟩

/-- Settles O22: a byte of an image is a byte of the field whose slice it stands in. -/
theorem imageBytesAreWired : Obligations.ImageBytesAreWired := by
  intro c r h
  obtain ⟨hid, ha, hb, hr, hcs⟩ := slices_encodeRecord h
  have hfield : ∀ {a b k : Nat}, a ≤ k → k < b → (encodeRecord c r)[k]? = (slice (encodeRecord c r) a b)[k - a]? := by
    intro a b k hak hkb
    rw [getElem?_slice, if_pos (by omega), Nat.add_sub_cancel' hak]
  refine ⟨length_encodeRecord h, fun k hk => ?_, fun k hk hk' => ?_, fun k hk hk' => ?_, fun k hk hk' => ?_,
    fun j hj => ?_⟩
  · rw [hfield (Nat.zero_le k) hk, hid, Nat.sub_zero, getElem?_int32 _ _ hk]
    cases c.endian <;> rfl
  · rw [hfield hk hk', ha]
  · rw [hfield hk hk', hb]
  · rw [hfield hk hk', hr]
  · rw [hfield (Nat.le_add_right c.csOff j) (Nat.add_lt_add_left hj _), hcs, Nat.add_sub_cancel_left,
      getElem?_int32 _ _ hj]
    cases c.endian <;> rfl

/-- Settles O23: one read of `rec` and one write of `img`. -/
theorem recEncResult : Obligations.RecEncResult :=
  ⟨rfl, fun _ => rfl⟩

/-- Settles O24: one read of `img` and one write of `rec`. -/
theorem recDecResult : Obligations.RecDecResult :=
  ⟨rfl, fun _ => rfl⟩

/-- Settles O25: the remainder is the complement of the checksum, and the checksum covers no byte after its head. -/
theorem recCsumResult : Obligations.RecCsumResult := by
  refine ⟨rfl, fun s => ?_, fun s head tail tail' hhead => ⟨_, _, rfl, rfl, ?_, ?_⟩⟩
  · rw [← crcRun_eq]
    rfl
  · show some (Response.value (crc32 ((head ++ tail).take s.cfg.csOff))) =
      some (Response.value (crc32 ((head ++ tail').take s.cfg.csOff)))
    rw [List.take_left' hhead, List.take_left' hhead]
  · show crcRun ((head ++ tail).take s.cfg.csOff) = crcRun ((head ++ tail').take s.cfg.csOff)
    rw [List.take_left' hhead, List.take_left' hhead]

/-- Settles O26: the remainder over the encoded record is the complement of the value compared. -/
theorem recValidResult : Obligations.RecValidResult := by
  refine ⟨rfl, fun s => ?_⟩
  simp only [← crcRun_eq]
  rfl

/-- Settles O27: the checksum stored covers no byte of itself. -/
theorem sealMakesRecordValid : Obligations.SealMakesRecordValid := by
  intro s h
  refine ⟨recordValid_sealedRecord h, rfl, crcRun_eq _, rfl, fun v => ?_⟩
  have hsealed : sealedRecord s.cfg { s.record with checksum := v } = sealedRecord s.cfg s.record := by
    simp only [sealedRecord, recordCsum_checksum h v]
  rw [State.sealed_eq_update, State.sealed_eq_update s]
  simp only [hsealed, covered_checksum h v]

/-- Settles O28: the erased image decodes to ones, and its two checksums are computed. -/
theorem erasedAndReinitRecords : Obligations.ErasedAndReinitRecords := by
  refine ⟨erasedRecord_eq, fun c => ?_, fun c hc => ?_, fun c hc => ?_⟩
  · rw [reinitRecord_eq_sealed]
    exact recordValid_sealedRecord (sized_erasedRecord c)
  · have hsum : erasedCsum c = 0x9D38A78C := by rw [erasedCsum_eq, hc, crc32_ones_reference]
    exact ⟨hsum, recordValid_erasedRecord (by rw [hsum]; decide)⟩
  · have hsum : erasedCsum c = 0x2CF772B0 := by rw [erasedCsum_eq, hc, crc32_ones_short]
    exact ⟨hsum, recordValid_erasedRecord (by rw [hsum]; decide)⟩

/-- Settles O29: the flipped bit changes one byte of the image. -/
theorem flippedBitInvalidatesRecord : Obligations.FlippedBitInvalidatesRecord := by
  intro c bs k hlen hk hv
  obtain ⟨b, hbyte, hflip, hb⟩ := flipBit_eq_set (bs := bs) (by rwa [hlen])
  rw [hflip]
  exact recordValid_set hlen hbyte hb hv

/-- Settles O36: slot offsets are multiples of the record size, and the tail is the remainder. -/
theorem slotsTileTheRegion : Obligations.SlotsTileTheRegion := by
  intro c
  have htail : c.tailLen = c.regionSize % c.recordSize := by
    rw [Config.tailLen, Config.recordCount, Nat.mod_eq_sub_div_mul]
  refine ⟨fun i hi => (Config.slot_inside hi).1, ?_, ?_, Nat.zero_mul _, fun i => Nat.succ_mul _ _⟩
  · rw [htail, Config.recordCount, Nat.div_add_mod']
  · rw [htail]
    exact Nat.mod_lt _ c.recordSize_pos

end

section
/-! The invariant is kept (State.Inv). A command keeps its working part, `State.Body`, at every point; each way a command
can end or wait gives the rest of the invariant once. -/

namespace Sys2Proof.Machine

variable {s t u : State}

/-- The part of the invariant that is not about responses and the sequencer, with nothing in flight. -/
structure State.Body (s : State) : Prop where
  legal : s.cfg.legal = true
  memWf : s.rgn.wf
  memBound : ∀ c ∈ s.rgn, c.1 < s.cfg.regionSize
  imgLen : s.img.length = s.cfg.recordSize
  recSized : s.record.sized s.cfg = true
  ptrRange : s.ptr.toNat ≤ s.cfg.recordCount
  inflight : s.inflight = none
  traceRange : ∀ q ∈ s.trace, q.inRange s.cfg = true

theorem State.Inv.body (h : s.Inv) (hi : s.inflight = none) : s.Body where
  legal := h.legal
  memWf := h.memWf
  memBound := h.memBound
  imgLen := h.imgLen
  recSized := h.recSized
  ptrRange := h.ptrRange
  inflight := hi
  traceRange := h.traceRange

/-- The flag is clear outside FAULT (R27). -/
theorem State.Inv.fault_eq_false (h : s.Inv) (hf : s.seq ≠ .fault) : s.fault = false := by
  rw [← Bool.not_eq_true, h.faultSeq]
  exact hf

theorem State.ready.not_fault (h : s.ready) : s.seq ≠ .fault := by
  rw [h.1]
  decide

/-- The state a store request's prologue hands on has no trace yet (R179). -/
theorem State.Inv.body_accepted (h : s.Inv) (hi : s.inflight = none) : s.accepted.Body :=
  { h.body hi with traceRange := fun _ hq => nomatch hq }

/-- A state inside a command keeps the working part of the invariant. -/
theorem State.During.body (h : s.During u) (hs : s.Body) : u.Body where
  legal := h.cfg ▸ hs.legal
  memWf := h.memWf hs.memWf
  memBound := h.cfg ▸ h.memBound hs.memBound
  imgLen := h.cfg ▸ h.imgLen hs.imgLen
  recSized := h.cfg ▸ h.recSized hs.recSized
  ptrRange := h.cfg ▸ h.ptrRange
  inflight := h.inflight.trans hs.inflight
  traceRange := h.cfg ▸ h.traceRange

/-- A request in range joins the trace (R179, R54). -/
theorem State.Body.traced (h : s.Body) {q : RgnRequest} (hq : q.inRange s.cfg = true) :
    (s.traced q).popAnswer.Body :=
  { h with
    traceRange := fun p hp => by
      obtain hp | hp := List.mem_append.1 hp
      · exact h.traceRange p hp
      · cases List.mem_singleton.1 hp
        exact hq }

theorem State.Body.setRgn_applyPartial (h : s.Body) {q : RgnRequest} (hq : q.inRange s.cfg = true) (draw : Nat) :
    (s.setRgn (q.applyPartial draw s.rgn)).Body :=
  { h with
    memWf := q.applyPartial_wf h.memWf draw
    memBound := RgnRequest.mem_applyPartial hq h.memBound }

/-! ### The ends of a command -/

theorem getElem?_rep_zero {n k : Nat} (h : k < n) : (rep 0x00 n)[k]? = some 0 := by
  rw [rep, List.getElem?_replicate, if_pos h]

/-- An error kind raised (R201): no data, and FAULT with its flag exactly for HardwareFault. -/
theorem State.Body.inv_raise (h : s.Body) {k : Kind} (hfault : k ≠ .hardwareFault → s.fault = false)
    (hcorrupt : k = .corrupt → s.cfg.verifyOnRead = true) : (s.raise k).Inv where
  legal := by simpa using h.legal
  memWf := by simpa using h.memWf
  memBound := by simpa using h.memBound
  imgLen := by simpa using h.imgLen
  recSized := by simpa using h.recSized
  ptrRange := by simpa using h.ptrRange
  faultSeq := by
    by_cases hk : k = .hardwareFault
    · simp [hk]
    · simp [hk, hfault hk]
  faultStatus := by
    by_cases hk : k = .hardwareFault
    · simp [hk]
    · simp [hk]
  corruptKind := by simpa using hcorrupt
  rlenRange := by simp
  rdataLen := by simp
  rlenOk := by simp
  rdataZero k _ hk := by simpa using getElem?_rep_zero hk
  running := by
    by_cases hk : k = .hardwareFault
    · simp [hk, Seq.running]
    · simp [hk, Seq.running]
  inflightRange := by simp [h.inflight]
  traceRange := by simpa using h.traceRange

/-- The end with status OK (R29): `n` bytes of data, zeros beyond. -/
theorem State.Body.inv_finish (h : s.Body) (hfault : s.fault = false) {n : BitVec 4} {data : List Byte}
    (hn : n.toNat ≤ 8) (hlen : data.length = 8) (hzero : ∀ k, n.toNat ≤ k → k < 8 → data[k]? = some 0) :
    (s.finish n data).Inv where
  legal := h.legal
  memWf := h.memWf
  memBound := h.memBound
  imgLen := h.imgLen
  recSized := h.recSized
  ptrRange := h.ptrRange
  faultSeq := by simp [hfault]
  faultStatus := by simp
  corruptKind := by simp
  rlenRange := hn
  rdataLen := hlen
  rlenOk := by simp
  rdataZero := hzero
  running := by simp [Seq.running]
  inflightRange := by simp [h.inflight]
  traceRange := h.traceRange

/-- A wait for an answer that does not come (R241): the response registers are those of before the command. -/
theorem State.During.inv_await (h : s.During u) (hs : s.Inv) (hr : s.ready)
    {q : RgnRequest} (hq : q.inRange u.cfg = true) : ((u.traced q).popAnswer.await q).Inv :=
  have hb := (h.body (hs.body hr.2)).traced hq
  have hne : u.seq ≠ .fault := fun hf => by
    have hrun := h.running
    rw [hf] at hrun
    cases hrun
  have hflag := hs.fault_eq_false hr.not_fault
  { legal := hb.legal
    memWf := hb.memWf
    memBound := hb.memBound
    imgLen := hb.imgLen
    recSized := hb.recSized
    ptrRange := hb.ptrRange
    faultSeq := by simp [h.fault, hflag, hne]
    faultStatus := fun hf => absurd hf hne
    corruptKind := by simpa [h.status, h.cfg] using hs.corruptKind
    rlenRange := by simpa [h.rlen] using hs.rlenRange
    rdataLen := by simpa [h.rdata] using hs.rdataLen
    rlenOk := by simpa [h.status, h.rlen] using hs.rlenOk
    rdataZero := by simpa [h.rlen, h.rdata] using hs.rdataZero
    running := fun _ => rfl
    inflightRange := fun p hp => by cases hp; exact hq
    traceRange := hb.traceRange }

/-- However a command ends or waits, the invariant holds, if it does where the command came to its end. -/
theorem Ends.inv {C : State → Prop} {D : State → State → Prop} {A : RgnRequest → Prop} (hs : s.Inv) (hr : s.ready)
    (hends : Ends (fun u => s.During u ∧ C u) D A t)
    (hdone : ∀ u, u.Body → u.fault = false → D u t → t.Inv ∧ t.cfg = u.cfg) : t.Inv ∧ t.cfg = s.cfg := by
  have hbody := hs.body hr.2
  have hflag := hs.fault_eq_false hr.not_fault
  obtain ⟨u, ⟨hu, _⟩, hD⟩ | ⟨u, q, draw, ⟨hu, _⟩, _, hq, _, rfl⟩ | ⟨u, q, ⟨hu, _⟩, _, hq, _, rfl⟩ := hends
  · obtain ⟨hinv, hcfg⟩ := hdone u (hu.body hbody) (hu.fault.trans hflag) hD
    exact ⟨hinv, hcfg.trans hu.cfg⟩
  · have hfailed := ((hu.body hbody).traced hq).setRgn_applyPartial (q := q) hq draw
    exact ⟨hfailed.inv_raise (fun h => absurd rfl h) nofun, by simpa using hu.cfg⟩
  · exact ⟨hu.inv_await hs hr hq, hu.cfg⟩

/-- CFG.READ that came to its end keeps the invariant (R164, R204, R206). -/
theorem ReadDone.inv {n : Byte} (hn : n.toNat ≤ 8) (hu : u.Body) (hflag : u.fault = false) (h : ReadDone n u t) :
    t.Inv ∧ t.cfg = u.cfg := by
  obtain ⟨hsized, rfl⟩ | ⟨hverify, rfl⟩ | rfl := h
  · obtain ⟨hpayload, _, _⟩ := Record.sized_iff.1 hsized
    have hlen : (n.setWidth 4).toNat = n.toNat := by
      rw [BitVec.toNat_setWidth, Nat.mod_eq_of_lt (by omega)]
    refine ⟨hu.inv_finish hflag (hlen ▸ hn) (length_readBack hpayload hn) fun k hk hk' => ?_, rfl⟩
    rw [hlen] at hk
    have htake : (u.record.payloadA.take n.toNat).length = n.toNat := by
      rw [List.length_take, hpayload, Nat.min_eq_left hn]
    rw [readBack, List.getElem?_append_right (by omega), htake]
    exact getElem?_rep_zero (by omega)
  · exact ⟨hu.inv_raise (fun _ => hflag) fun _ => hverify, by simp⟩
  · exact ⟨hu.inv_raise (fun _ => hflag) nofun, by simp⟩

theorem readBody_inv {n : Byte} (hn : n.toNat ≤ 8) (hs : s.Inv) (hr : s.ready) (htr : s.trace = []) :
    (readBody n s).Inv ∧ (readBody n s).cfg = s.cfg :=
  (readBody_Ends n hs.legal htr).inv hs hr fun _ hu hflag hdone => hdone.inv hn hu hflag

theorem writeBody_inv {n : Byte} {wdata : List Byte} (hs : s.Inv) (hr : s.ready) (htr : s.trace = []) :
    (writeBody n wdata s).Inv ∧ (writeBody n wdata s).cfg = s.cfg := by
  have hends : Ends (fun u => s.During u ∧ True) _ _ _ :=
    (writeBody_Ends n wdata hs.legal htr).mono fun _ hu => ⟨hu, trivial⟩
  refine hends.inv hs hr fun u hu hflag hdone => ?_
  rw [hdone]
  exact ⟨hu.inv_finish hflag (Nat.zero_le 8) rfl fun k _ hk => getElem?_rep_zero hk, rfl⟩

/-! ### The requests -/

theorem State.Inv.accepted (h : s.Inv) : s.accepted.Inv :=
  { h with traceRange := fun _ hq => nomatch hq }

/-- In FAULT the answer is what raising HardwareFault again would leave (R207, R201). -/
theorem State.Inv.respondEmpty_fault (h : s.Inv) (hf : s.seq = .fault) :
    s.accepted.respondEmpty .hardwareFault = s.accepted.raise .hardwareFault := by
  have hflag : s.fault = true := h.faultSeq.2 hf
  simp [State.raise, State.respondEmpty, State.respond, State.accepted, hf, hflag]

theorem State.inflight_of_not_busy (h : s.busy = false) : s.inflight = none := by
  simp only [State.busy, Bool.or_eq_false_iff] at h
  simpa using h.2

theorem storeCommand_inv {bufp : Bool} {arg : Byte} {body : State → State} (h : s.Inv)
    (hbody : s.accepted.ready → arg.toNat ≤ 8 → (body s.accepted).Inv ∧ (body s.accepted).cfg = s.cfg) :
    (storeCommand bufp arg body s).Inv ∧ (storeCommand bufp arg body s).cfg = s.cfg := by
  obtain ⟨_, e⟩ | ⟨hb, hf, e⟩ | ⟨hr, _, e⟩ | ⟨hr, hlen, e⟩ := storeCommand_cases bufp arg body s
  all_goals rw [e]
  · exact ⟨h, rfl⟩
  · rw [h.respondEmpty_fault hf]
    exact ⟨(h.body_accepted (State.inflight_of_not_busy hb)).inv_raise (fun hk => absurd rfl hk) nofun, by simp [State.accepted]⟩
  · exact ⟨(h.body_accepted hr.2).inv_raise (fun _ => h.fault_eq_false hr.not_fault) nofun, by simp [State.accepted]⟩
  · exact hbody hr (badLength_iff.1 hlen).2

theorem illegalStoreRequest_raise (hb : s.busy = false) (hf : s.seq ≠ .fault) :
    illegalStoreRequest s = s.accepted.raise .illegalRequest := by
  simp [illegalStoreRequest, hb, hf, State.accepted]

theorem illegalStoreRequest_inv (h : s.Inv) : (illegalStoreRequest s).Inv ∧ (illegalStoreRequest s).cfg = s.cfg := by
  cases hb : s.busy with
  | true =>
    rw [illegalStoreRequest_busy hb]
    exact ⟨h, rfl⟩
  | false =>
    have hbody := h.body_accepted (State.inflight_of_not_busy hb)
    by_cases hf : s.seq = .fault
    · rw [illegalStoreRequest_fault hb hf, h.respondEmpty_fault hf]
      exact ⟨hbody.inv_raise (fun hk => absurd rfl hk) nofun, by simp [State.accepted]⟩
    · rw [illegalStoreRequest_raise hb hf]
      exact ⟨hbody.inv_raise (fun _ => h.fault_eq_false hf) nofun, by simp [State.accepted]⟩

/-- A transaction on the region port keeps the invariant (R50, R68). -/
theorem regionTransaction_inv {q : RgnRequest} (h : s.Inv) :
    (regionTransaction q s).Inv ∧ (regionTransaction q s).cfg = s.cfg := by
  obtain ⟨_, e⟩ | ⟨_, _, e⟩ | ⟨_, hq, _, e⟩ | ⟨_, hq, draw, _, e⟩ | ⟨_, hq, _, e⟩ := regionTransaction_cases q s
  all_goals rw [e]
  · exact ⟨h, rfl⟩
  · exact ⟨{ h with }, rfl⟩
  · exact ⟨{ h with memWf := q.apply_wf h.memWf, memBound := RgnRequest.mem_apply hq h.memBound }, rfl⟩
  · exact ⟨{ h with memWf := q.applyPartial_wf h.memWf draw, memBound := RgnRequest.mem_applyPartial hq h.memBound }, rfl⟩
  · exact ⟨{ h with running := fun _ => rfl, inflightRange := fun p hp => by cases hp; exact hq }, rfl⟩

theorem exec_inv {i : Instr} (h : s.Inv) (ht : exec i s = .next t) : t.Inv ∧ t.cfg = s.cfg := by
  cases i with
  | crcInit | crcByte | crcFinal | recCsum | recValid =>
    cases ht
    exact ⟨{ h with }, rfl⟩
  | recEnc =>
    cases ht
    exact ⟨{ h with imgLen := length_encodeRecord h.recSized }, rfl⟩
  | recDec =>
    cases ht
    exact ⟨{ h with recSized := sized_decodeRecord h.imgLen }, rfl⟩
  | rgnRead | rgnProg | rgnErase =>
    cases ht
    exact regionTransaction_inv h
  | cfgRead =>
    cases ht
    exact storeCommand_inv h fun hr hn => readBody_inv hn h.accepted hr rfl
  | cfgWrite =>
    cases ht
    exact storeCommand_inv h fun hr _ => writeBody_inv h.accepted hr rfl

theorem perform_inv {r : Request} (h : s.Inv) (ht : perform r s = .next t) : t.Inv ∧ t.cfg = s.cfg := by
  unfold perform at ht
  split at ht
  · exact exec_inv h ht
  · rw [rejectRequest_next ht]
    exact illegalStoreRequest_inv h

/-- A request is answered, or an internal port refuses it (R90). -/
theorem perform_cases (r : Request) (s : State) :
    (∃ t, perform r s = .next t) ∨
      ∃ why e, perform r s = .refused why ∧ r.port ≠ .store ∧ decode r = .error e := by
  cases hd : decode r with
  | ok i =>
    obtain ⟨t, ht⟩ := exec_next i s
    exact .inl ⟨t, by simp only [perform, hd, ht]⟩
  | error e =>
    have hreject : perform r s = rejectRequest r.port e s := by simp only [perform, hd]
    by_cases hport : r.port = .store
    · exact .inl ⟨illegalStoreRequest s, by rw [hreject, hport]; rfl⟩
    · exact .inr ⟨_, e, hreject.trans (rejectRequest_refused.2 ⟨hport, rfl⟩), hport, rfl⟩

/-! ### The other steps -/

/-- A reset gives every register a value in its range; the region it leaves is a mix (R230, R236). -/
theorem State.resetBy_inv (hlegal : s.cfg.legal = true) (hwf : s.rgn.wf)
    (hbound : ∀ c ∈ s.rgn, c.1 < s.cfg.regionSize) (hrange : ∀ q, s.inflight = some q → q.inRange s.cfg = true)
    (draw : Nat) : (s.resetBy draw).Inv where
  legal := hlegal
  memWf := by
    cases hi : s.inflight with
    | none => simpa [State.resetBy, hi] using hwf
    | some q => simpa [State.resetBy, hi] using q.applyPartial_wf hwf draw
  memBound := by
    cases hi : s.inflight with
    | none => simpa [State.resetBy, hi] using hbound
    | some q => simpa [State.resetBy, hi] using RgnRequest.mem_applyPartial (hrange q hi) hbound
  imgLen := length_erasedImg s.cfg
  recSized := sized_erasedRecord s.cfg
  ptrRange := by
    obtain ⟨_, _, _, _, hcount⟩ := Config.legal_bounds hlegal
    exact (ptr_toNat hcount).le
  faultSeq := by simp [State.resetBy]
  faultStatus := nofun
  corruptKind := nofun
  rlenRange := Nat.zero_le 8
  rdataLen := rfl
  rlenOk := fun _ => rfl
  rdataZero k _ hk := getElem?_rep_zero hk
  running := nofun
  inflightRange := nofun
  traceRange := nofun

theorem State.platformAccess_inv {q : RgnRequest} (h : s.Inv) :
    (s.platformAccess q).Inv ∧ (s.platformAccess q).cfg = s.cfg := by
  unfold State.platformAccess
  split
  · rename_i hq
    exact ⟨{ h with memWf := q.apply_wf h.memWf, memBound := RgnRequest.mem_apply hq h.memBound }, rfl⟩
  · exact ⟨h, rfl⟩

theorem State.Inv.withInputs (h : s.Inv) (rest : List Input) : (s.withInputs rest).Inv :=
  { h with }

end Sys2Proof.Machine
end

section
open Sys2Proof Sys2Proof.Machine

/-- Settles O59: waits, resets, the platform's accesses and each request keep the invariant. -/
theorem stepKeepsInvariant : Obligations.StepKeepsInvariant := by
  intro s t h ht
  obtain ⟨_, e⟩ | ⟨_, ⟨_, e⟩ | ⟨draw, rest, _, e⟩ | ⟨q, rest, _, e⟩ | ⟨r, rest, _, e⟩ | ⟨_, e⟩⟩ := step_cases s
  all_goals rw [e] at ht
  · cases ht
  · cases ht
    exact ⟨h, rfl⟩
  · cases ht
    have hin := h.withInputs rest
    exact ⟨State.resetBy_inv hin.legal hin.memWf hin.memBound hin.inflightRange draw, rfl⟩
  · cases ht
    exact State.platformAccess_inv (h.withInputs rest)
  · exact perform_inv (s := s.withInputs rest) (h.withInputs rest) ht
  · cases ht

/-- Settles O10: the state after reset is what a reset leaves. -/
theorem resetSatisfiesInvariant : Obligations.ResetSatisfiesInvariant :=
  State.resetBy_inv (s := State.reset) (by decide) State.reset_memory_wf nofun nofun 0

/-- Settles O60: a legal configuration is not refused, and a running command has its request in flight. -/
theorem invariantStepNeverFaults : Obligations.InvariantStepNeverFaults := by
  intro s h
  obtain ⟨hl, _⟩ | ⟨hl, ⟨_, e⟩ | ⟨_, _, _, e⟩ | ⟨_, _, _, e⟩ | ⟨r, rest, hp, e⟩ | ⟨hp, _⟩⟩ := step_cases s
  · exact absurd h.legal (by simp [hl])
  · exact ⟨fun f hf => (nomatch e.symm.trans hf), .inl ⟨_, e⟩⟩
  · exact ⟨fun f hf => (nomatch e.symm.trans hf), .inl ⟨_, e⟩⟩
  · exact ⟨fun f hf => (nomatch e.symm.trans hf), .inl ⟨_, e⟩⟩
  · obtain ⟨_, hin⟩ := State.of_pending_request hp
    obtain ⟨t, ht⟩ | ⟨why, err, hwhy, hport, hdec⟩ := perform_cases r (s.withInputs rest)
    · exact ⟨fun f hf => (nomatch ht.symm.trans (e.symm.trans hf)), .inl ⟨t, e.trans ht⟩⟩
    · exact ⟨fun f hf => (nomatch hwhy.symm.trans (e.symm.trans hf)),
        .inr ⟨why, r, rest, err, e.trans hwhy, hin, hport, hdec⟩⟩
  · obtain ⟨hrun, hi⟩ := State.of_pending_lost hp
    have hsome := h.running hrun
    rw [hi] at hsome
    cases hsome

end

section
/-! What holds of every store command, whatever the platform answers (spec 43_block_store.md R164, R169): the registers it
never writes, the region under CFG.READ, and the responses CFG.WRITE can give. -/

namespace Sys2Proof.Machine

variable {s t u : State}

/-- What a store command leaves alone (R31, R33, R38) and the form of the region it keeps (R32). -/
structure State.Frame (s t : State) : Prop where
  cfg : t.cfg = s.cfg
  inputs : t.inputs = s.inputs
  testFault : t.testFault = s.testFault
  memWf : s.rgn.wf → t.rgn.wf

theorem State.Frame.refl (s : State) : s.Frame s := ⟨rfl, rfl, rfl, id⟩

theorem State.During.frame (h : s.During u) : s.Frame u := ⟨h.cfg, h.inputs, h.testFault, h.memWf⟩

theorem State.Frame.raise (h : s.Frame u) (k : Kind) : s.Frame (u.raise k) :=
  ⟨by simpa using h.cfg, by simpa using h.inputs, by simpa using h.testFault, by simpa using h.memWf⟩

theorem State.Frame.finish (h : s.Frame u) (n : BitVec 4) (data : List Byte) : s.Frame (u.finish n data) :=
  ⟨h.cfg, h.inputs, h.testFault, h.memWf⟩

/-- A command's requests, failing or unanswered, keep the frame; it is left to show where the command came to its end. -/
theorem Ends.frame {C : State → Prop} {D : State → State → Prop} {A : RgnRequest → Prop}
    (hends : Ends (fun u => s.During u ∧ C u) D A t) (hdone : ∀ u, s.Frame u → D u t → s.Frame t) : s.Frame t := by
  obtain ⟨u, ⟨hu, _⟩, hD⟩ | ⟨u, q, draw, ⟨hu, _⟩, _, _, _, rfl⟩ | ⟨u, q, ⟨hu, _⟩, _, _, _, rfl⟩ := hends
  · exact hdone u hu.frame hD
  · have hfailed : s.Frame ((u.traced q).popAnswer.setRgn (q.applyPartial draw u.rgn)) :=
      ⟨hu.cfg, hu.inputs, hu.testFault, fun hw => q.applyPartial_wf (hu.memWf hw) draw⟩
    exact hfailed.raise .hardwareFault
  · exact ⟨hu.cfg, hu.inputs, hu.testFault, hu.memWf⟩

theorem readBody_frame (n : Byte) (hl : s.cfg.legal = true) (htr : s.trace = []) : s.Frame (readBody n s) := by
  refine (readBody_Ends n hl htr).frame fun u hu hdone => ?_
  obtain ⟨_, e⟩ | ⟨_, e⟩ | e := hdone
  all_goals rw [e]
  · exact hu.finish _ _
  · exact hu.raise _
  · exact hu.raise _

theorem writeBody_frame (n : Byte) (wdata : List Byte) (hl : s.cfg.legal = true) (htr : s.trace = []) :
    s.Frame (writeBody n wdata s) := by
  have hends : Ends (fun u => s.During u ∧ True) _ _ _ :=
    (writeBody_Ends n wdata hl htr).mono fun _ hu => ⟨hu, trivial⟩
  refine hends.frame fun u hu hdone => ?_
  rw [hdone]
  exact hu.finish _ _

/-- A property a store command's prologue keeps and its body has is a property of the command. -/
theorem storeCommand_holds {Q : State → Prop} (bufp : Bool) (arg : Byte) (body : State → State) (hbusy : Q s)
    (hfault : Q (s.accepted.respondEmpty .hardwareFault)) (hlen : Q (s.accepted.raise .invalidLength))
    (hbody : s.ready → arg.toNat ≤ 8 → Q (body s.accepted)) : Q (storeCommand bufp arg body s) := by
  obtain ⟨_, e⟩ | ⟨_, _, e⟩ | ⟨_, _, e⟩ | ⟨hr, hgood, e⟩ := storeCommand_cases bufp arg body s
  all_goals rw [e]
  · exact hbusy
  · exact hfault
  · exact hlen
  · exact hbody hr (badLength_iff.1 hgood).2

theorem storeCommand_frame (bufp : Bool) (arg : Byte) {body : State → State}
    (hbody : s.accepted.Frame (body s.accepted)) : s.Frame (storeCommand bufp arg body s) :=
  have haccepted : s.Frame s.accepted := ⟨rfl, rfl, rfl, id⟩
  storeCommand_holds bufp arg body (.refl s) ⟨rfl, rfl, rfl, id⟩ (haccepted.raise _)
    fun _ _ => ⟨hbody.cfg, hbody.inputs, hbody.testFault, hbody.memWf⟩

/-- What CFG.READ leaves as it was: the region, and without `VERIFY_ON_READ` `crc` and the kinds short of Corrupt. -/
def ReadLeaves (s t : State) : Prop :=
  t.rgn = s.rgn ∧ (s.cfg.verifyOnRead = false → t.crc = s.crc ∧ (t.status = .corrupt → s.status = .corrupt))

theorem readBody_leaves (n : Byte) (hl : s.cfg.legal = true) (htr : s.trace = []) :
    ReadLeaves s (readBody n s) := by
  have hends := readBody_Ends n hl htr
  revert hends
  generalize readBody n s = t
  rintro (⟨u, ⟨hu, hrgn, hcrc⟩, hdone⟩ | ⟨u, q, draw, ⟨hu, hrgn, hcrc⟩, ⟨i, rfl⟩, _, _, rfl⟩ |
    ⟨u, q, ⟨hu, hrgn, hcrc⟩, _, _, _, rfl⟩)
  · obtain ⟨_, rfl⟩ | ⟨hverify, rfl⟩ | rfl := hdone
    · exact ⟨hrgn, fun hv => ⟨hcrc hv, nofun⟩⟩
    · rw [hu.cfg] at hverify
      exact ⟨by simpa using hrgn, fun hv => absurd (hv.symm.trans hverify) nofun⟩
    · exact ⟨by simpa using hrgn, fun hv => ⟨by simpa using hcrc hv, by simp⟩⟩
  · exact ⟨by simpa [Config.slotRead] using hrgn, fun hv => ⟨by simpa using hcrc hv, by simp⟩⟩
  · exact ⟨hrgn, fun hv => ⟨hcrc hv, fun hk => hu.status.symm.trans hk⟩⟩

/-- Past the prologue CFG.WRITE is its body (R169). -/
theorem exec_cfgWrite_body {n : Byte} {wdata : List Byte} (hr : s.ready) (hn : n.toNat ≤ 8) :
    exec (.cfgWrite true n wdata) s = .next (writeBody n wdata s.accepted) :=
  congrArg Host.Outcome.next (storeCommand_body hr (badLength_false hn))

/-- Past the prologue CFG.READ is its body (R164). -/
theorem exec_cfgRead_body {n : Byte} (hr : s.ready) (hn : n.toNat ≤ 8) :
    exec (.cfgRead true n) s = .next (readBody n s.accepted) :=
  congrArg Host.Outcome.next (storeCommand_body hr (badLength_false hn))

end Sys2Proof.Machine
end

section
open Sys2Proof Sys2Proof.Machine

/-- Settles O42: no part of a command writes these registers, and every write of the region keeps its form. -/
theorem storeCommandFrame : Obligations.StoreCommandFrame := by
  intro s t bufp n wdata hlegal h
  have hframe : s.Frame t := by
    obtain h | h := h
    · cases h
      exact storeCommand_frame bufp n (readBody_frame n hlegal rfl)
    · cases h
      exact storeCommand_frame bufp n (writeBody_frame n wdata hlegal rfl)
  exact ⟨hframe.cfg, hframe.inputs, hframe.testFault, hframe.memWf⟩

/-- Settles O46: CFG.READ requests reads of slots only, and verifies only where it is told to. -/
theorem cfgReadNeverChangesRegion : Obligations.CfgReadNeverChangesRegion := by
  intro s t bufp n hlegal h
  cases h
  exact storeCommand_holds (Q := ReadLeaves s) bufp n (readBody n) ⟨rfl, fun _ => ⟨rfl, id⟩⟩
    ⟨rfl, fun _ => ⟨rfl, nofun⟩⟩ ⟨rfl, fun _ => ⟨rfl, nofun⟩⟩ fun _ _ => readBody_leaves (s := s.accepted) n hlegal rfl

/-- Settles O49: CFG.WRITE ends with OK, with a failing request, or at a request without an answer. -/
theorem cfgWriteReportsOkOrHardwareFault : Obligations.CfgWriteReportsOkOrHardwareFault := by
  intro s t n wdata hlegal hr hn h
  rw [exec_cfgWrite_body hr hn] at h
  cases h
  obtain ⟨u, _, e⟩ | ⟨u, q, draw, _, _, _, _, e⟩ | ⟨u, q, hu, _, _, _, e⟩ :=
    writeBody_Ends (s := s.accepted) n wdata hlegal rfl
  all_goals rw [e]
  · exact .inl ⟨rfl, rfl⟩
  · exact .inr (.inl ⟨rfl, rfl⟩)
  · exact .inr (.inr ⟨rfl, hu.running⟩)

end

section
/-! CFG.READ whose requests succeed (spec 43_block_store.md R164): the scan loads the first occupied slot or passes the
last one, and the end of the command is computed from the loaded state. -/

namespace Sys2Proof.Machine

variable {s : State} {test : Record → Bool} {found exhausted : State → State}

/-- A command's scan stops at the first slot that passes (R164, R169). -/
theorem scan_begun_found {m : Nat} (q : Seq) (hl : s.cfg.legal = true) (hok : s.okFor (m + 1))
    (hm : s.firstSlot test m) :
    scan test found exhausted s.cfg.recordCount (s.begun q) = found ((s.begun q).scanned 0 m) := by
  obtain ⟨_, _, _, _, hcount⟩ := Config.legal_bounds hl
  obtain ⟨hlt, htest, hbefore⟩ := hm
  exact scan_found s.cfg.recordCount (s.begun q) 0 m hcount hok rfl rfl (Nat.zero_add _) (Nat.zero_le _) hlt htest
    fun i _ hi => hbefore i hi

/-- A command's scan passes the last slot when none passes the test (R164, R169). -/
theorem scan_begun_exhausted (q : Seq) (hl : s.cfg.legal = true) (hok : s.okFor s.cfg.recordCount)
    (hno : s.noSlot test) :
    scan test found exhausted s.cfg.recordCount (s.begun q) =
      exhausted (((s.begun q).scanned 0 (s.cfg.recordCount - 1)).setPtr (BitVec.ofNat 16 s.cfg.recordCount)) := by
  obtain ⟨_, _, _, hpos, hcount⟩ := Config.legal_bounds hl
  obtain ⟨k, hk⟩ : ∃ k, s.cfg.recordCount = k + 1 := ⟨s.cfg.recordCount - 1, by omega⟩
  have hscan := scan_exhausted (test := test) (found := found) (exhausted := exhausted) k (s.begun q) 0 hcount
    (hk ▸ hok : s.okFor (k + 1)) rfl rfl ((Nat.zero_add _).trans hk.symm) fun i _ hi => hno i hi
  rw [← hk] at hscan
  exact hscan

/-- REC.VALID on a record a command has written (R147). -/
theorem State.recValid_eq (hw : s.written.record = true) : s.recValid = { s with
    crc := recordCsum s.cfg s.record ^^^ 0xFFFFFFFF, written := { s.written with crc := true } } := by
  have hcrc : crcRun (covered s.cfg (encodeRecord s.cfg s.record)) = recordCsum s.cfg s.record ^^^ 0xFFFFFFFF :=
    crcRun_eq _
  simp [State.recValid, State.noteRead, State.setCrc, hw, hcrc]

theorem State.noSlot_occupied (h : s.classEmpty) : s.noSlot Record.occupied := by
  intro i hi
  have hid : (s.slotRec i).blockId = erasedId := h i hi
  simp [Record.occupied, hid]

end Sys2Proof.Machine
end

section
open Sys2Proof Sys2Proof.Machine

/-- Settles O43: the scan loads the first occupied slot, which is valid where that is checked. -/
theorem cfgReadReturnsFirstOccupied : Obligations.CfgReadReturnsFirstOccupied := by
  intro s n m hlegal hr hok hn hm hvalid data
  have hbody : readBody n s.accepted = readFound n ((s.begun .rdScan).scanned 0 m) :=
    scan_begun_found .rdScan hlegal hok hm
  rw [exec_cfgRead_body hr hn, hbody, State.begun_scanned, readFound, hr.1]
  cases hv : s.cfg.verifyOnRead with
  | false =>
    simp only [Bool.or_false]
    rfl
  | true =>
    have hvalue : recordValid s.cfg (s.slotRec m) = true := hvalid hv
    simp only [State.validValue, hvalue, Bool.or_true]
    rw [State.recValid_eq rfl]
    rfl

/-- Settles O44: the first occupied slot fails the check, and nothing is read after it. -/
theorem cfgReadReportsCorrupt : Obligations.CfgReadReportsCorrupt := by
  intro s n m hlegal hr hok hn hm hverify hinvalid
  have hbody : readBody n s.accepted = readFound n ((s.begun .rdScan).scanned 0 m) :=
    scan_begun_found .rdScan hlegal hok hm
  rw [exec_cfgRead_body hr hn, hbody, State.begun_scanned, readFound, hr.1]
  simp only [State.validValue, hverify, hinvalid]
  rw [State.recValid_eq rfl]
  rfl

/-- Settles O45: no slot of an erased region is occupied. -/
theorem cfgReadReportsNotFound : Obligations.CfgReadReportsNotFound := by
  intro s n hlegal hr hok hn hempty
  have hbody := scan_begun_exhausted (found := readFound n) (exhausted := fun t => t.raise .notFound) .rdScan
    hlegal hok (State.noSlot_occupied hempty)
  have hcount := Config.recordCount_pos_of_legal hlegal
  rw [exec_cfgRead_body hr hn]
  refine congrArg Host.Outcome.next (hbody.trans ?_)
  rw [State.begun_scanned, hr.1, Nat.sub_add_cancel hcount]
  rfl

end

section
/-! CFG.WRITE whose requests succeed (spec 43_block_store.md R168, R169): the records it seals, and the region and
registers its two ways to the end leave. -/

namespace Sys2Proof.Machine

variable {s u : State} {c : Config}

/-! ### Sealed records -/

/-- The codec unit after `Seal` has left `r` in it (R163): `img` its encoding, `crc` the complement of its checksum. -/
def State.holding (s : State) (r : Record) : State :=
  { s with
    record := r
    img := encodeRecord s.cfg r
    crc := r.checksum ^^^ 0xFFFFFFFF
    written := { s.written with crc := true, record := true, img := true } }

theorem sized_rewritten {old : Record} (h : old.sized c = true) {n : Nat} {wdata : List Byte} (hn : n ≤ 8)
    (hw : wdata.length = 8) : (rewritten c old n wdata).sized c = true := by
  obtain ⟨ha, hb, hr⟩ := Record.sized_iff.1 h
  refine Record.sized_iff.2 ⟨?_, hb, hr⟩
  show (wdata.take n ++ old.payloadA.drop n).length = 8
  rw [List.length_append, List.length_take, List.length_drop, ha, hw]
  omega

theorem sized_reinitRecord (c : Config) : (reinitRecord c).sized c = true :=
  sized_erasedRecord c

theorem sized_slotRec (s : State) (i : Nat) : (s.slotRec i).sized s.cfg = true :=
  sized_decodeRecord (Memory.length_readBytes _ _ _)

/-- `Update` and `Seal` leave the rewritten record (R166, R163). -/
theorem State.updated_sealed (h : u.record.sized u.cfg = true) {n : Nat} {wdata : List Byte} (hn : n ≤ 8)
    (hw : wdata.length = 8) : (u.updated n wdata).sealed = u.holding (rewritten u.cfg u.record n wdata) := by
  obtain ⟨ha, _, _⟩ := Record.sized_iff.1 h
  have hpayload : overlay n wdata u.record.payloadA = wdata.take n ++ u.record.payloadA.drop n :=
    overlay_eq (hw ▸ hn) (ha ▸ hn)
  have hrecord : sealedRecord u.cfg (u.updated n wdata).record = rewritten u.cfg u.record n wdata := by
    rw [State.updated_record, hpayload]
    rfl
  rw [State.sealed_eq rfl]
  simp only [State.updated_cfg, hrecord]
  rfl

theorem State.loadErased_eq (s : State) : s.loadErased = { s with
    record := s.cfg.erasedRecord, img := s.cfg.erasedImg
    written := { s.written with img := true, record := true } } := by
  simp [State.loadErased, State.recDec, State.noteRead, State.setRecord, State.setImg, Config.erasedRecord]

/-- Compaction's record of slot 0 (R168). -/
theorem State.loadErased_updated_sealed (s : State) {n : Nat} {wdata : List Byte} (hn : n ≤ 8)
    (hw : wdata.length = 8) :
    (s.loadErased.updated n wdata).sealed = s.holding (rewritten s.cfg s.cfg.erasedRecord n wdata) := by
  rw [State.updated_sealed s.loadErased_Loaded.recSized hn hw, State.loadErased_eq]
  rfl

/-- Compaction's record of every later slot (R168). -/
theorem State.loadErased_sealed (s : State) : s.loadErased.sealed = s.holding (reinitRecord s.cfg) := by
  rw [State.sealed_eq rfl, State.loadErased_eq, reinitRecord_eq_sealed]
  rfl

/-! ### Compaction's third stage -/

theorem Config.slotOff_zero (c : Config) : c.slotOff 0 = 0 := Nat.zero_mul _

/-- The programs of `n` slots from `p` on with `encode(REINIT_REC)` (R168, R179). -/
def reinitProgs (c : Config) (p n : Nat) : List RgnRequest :=
  (List.range' p n).map fun i => .prog (c.slotOff i) (encodeRecord c (reinitRecord c))

/-- The state with those requests made, the platform succeeding. -/
def State.reinited (s : State) (p n : Nat) : State :=
  { s with
    ptr := BitVec.ofNat 16 (p + n)
    rgn := (reinitProgs s.cfg p n).foldl (fun m q => q.apply m) s.rgn
    trace := s.trace ++ reinitProgs s.cfg p n
    answers := s.answers.drop n }

theorem reinitProgs_succ (c : Config) (p n : Nat) : reinitProgs c p (n + 1) =
    .prog (c.slotOff p) (encodeRecord c (reinitRecord c)) :: reinitProgs c (p + 1) n := by
  simp [reinitProgs, List.range'_succ]

/-- Slot `p` programmed and the pointer moved past it. -/
def State.reinitedOne (s : State) (p : Nat) : State :=
  (((s.traced (.prog (s.cfg.slotOff p) (encodeRecord s.cfg (reinitRecord s.cfg)))).popAnswer).setRgn
    (s.rgn.program (s.cfg.slotOff p) (encodeRecord s.cfg (reinitRecord s.cfg)))).setPtr (BitVec.ofNat 16 (p + 1))

theorem State.reinited_succ (s : State) (p n : Nat) (hw : s.written.ptr = true) :
    (s.reinitedOne p).reinited (p + 1) n = s.reinited p (n + 1) := by
  simp only [State.reinited, State.reinitedOne, State.setPtr, State.setRgn, State.popAnswer, State.traced,
    reinitProgs_succ, List.foldl_cons, List.append_assoc, List.singleton_append, ← hw]
  rw [← List.drop_one, List.drop_drop, Nat.add_comm n 1, Nat.add_assoc]
  rfl

/-- When its requests succeed the third stage programs every slot from `p` on (R168). -/
theorem reinitSlots_ok : ∀ (n : Nat) (s : State) (p : Nat) (r : Record), s.cfg.recordCount ≤ 65535 → s.okFor n →
    s.ptr = BitVec.ofNat 16 p → s.written.ptr = true → p + n = s.cfg.recordCount →
    reinitSlots n (s.holding r) = .go ((s.reinited p n).holding (if n = 0 then r else reinitRecord s.cfg)) := by
  intro n
  induction n with
  | zero =>
    intro s p r _ _ hptr _ _
    rw [reinitSlots, if_pos rfl, State.reinited, Nat.add_zero, ← hptr]
    simp [reinitProgs]
  | succ n ih =>
    intro s p r hcount hok hptr hw hn
    have hptr' : (s.holding r).ptr = BitVec.ofNat 16 p := hptr
    have hsealed : (s.holding r).loadErased.sealed = s.holding (reinitRecord s.cfg) := State.loadErased_sealed _
    have hprog : progSlot p (s.holding (reinitRecord s.cfg)) = .go ((s.holding (reinitRecord s.cfg)).programmed p) :=
      progSlot_ok (show p < s.cfg.recordCount by omega) (length_encodeRecord (sized_reinitRecord s.cfg)) hok.nextAnswer
    have hsame : ((s.holding (reinitRecord s.cfg)).programmed p).ptr = BitVec.ofNat 16 p := hptr
    have hstep : ((s.holding (reinitRecord s.cfg)).programmed p).setPtr (BitVec.ofNat 16 (p + 1)) =
        (s.reinitedOne p).holding (reinitRecord s.cfg) := rfl
    rw [reinitSlots, hptr', ptr_toNat (by omega), hsealed, hprog]
    simp only [hsame, ptr_succ, hstep]
    rw [ih (s.reinitedOne p) (p + 1) (reinitRecord s.cfg) hcount
      (State.okFor.drop 1 (hok.mono (by omega)) List.drop_one.symm) rfl rfl
      (show p + 1 + n = s.cfg.recordCount by omega), State.reinited_succ s p n hw, if_neg (Nat.succ_ne_zero n)]
    exact congrArg (fun r => Flow.go ((s.reinited p (n + 1)).holding r)) (ite_self _)

/-- What the third stage leaves: `encode(REINIT_REC)` in each of its slots, every other byte as it was. -/
theorem read_reinitProgs {m : Memory} (hm : m.wf) (p n a : Nat) :
    ((reinitProgs c p n).foldl (fun m q => RgnRequest.apply q m) m).read a =
      if p * c.recordSize ≤ a ∧ a < (p + n) * c.recordSize then
        (encodeRecord c (reinitRecord c)).getD (a % c.recordSize) erasedByte
      else m.read a := by
  induction n generalizing m p with
  | zero =>
    rw [if_neg (by rw [Nat.add_zero]; omega)]
    rfl
  | succ n ih =>
    have hlen : (encodeRecord c (reinitRecord c)).length = c.recordSize := length_encodeRecord (sized_reinitRecord c)
    have hnext : (p + 1) * c.recordSize = p * c.recordSize + c.recordSize := Nat.succ_mul _ _
    have hend : (p + 1) * c.recordSize ≤ (p + (n + 1)) * c.recordSize := Nat.mul_le_mul_right _ (by omega)
    rw [reinitProgs_succ, List.foldl_cons, ih (RgnRequest.apply_wf hm _), RgnRequest.read_apply hm,
      show p + 1 + n = p + (n + 1) by omega]
    simp only [RgnRequest.off, RgnRequest.newBytes, Config.slotOff, hlen]
    by_cases hlater : (p + 1) * c.recordSize ≤ a ∧ a < (p + (n + 1)) * c.recordSize
    · rw [if_pos hlater, if_pos (by omega)]
    · rw [if_neg hlater]
      by_cases hslot : p * c.recordSize ≤ a ∧ a < p * c.recordSize + c.recordSize
      · have hmod : a % c.recordSize = a - p * c.recordSize := by
          rw [← Nat.sub_mul_mod (k := p) (by rw [Nat.mul_comm]; exact hslot.1), Nat.mul_comm,
            Nat.mod_eq_of_lt (by omega)]
        rw [if_pos hslot, if_pos (by omega), hmod]
      · rw [if_neg hslot, if_neg (by omega)]

end Sys2Proof.Machine
end

section
/-! The two ends of a CFG.WRITE whose requests succeed (spec 43_block_store.md R169). -/

namespace Sys2Proof.Machine

variable {s : State} {n : Byte} {wdata : List Byte}

theorem isMatching_eq_false_iff {r : Record} :
    Record.isMatching r = false ↔ r.blockId ≠ erasedId ∧ r.blockId ≠ writtenId := by
  simp [Record.isMatching]

/-- No slot matches exactly in the regions of class EXHAUSTED (R170, R175). -/
theorem State.noSlot_isMatching_iff : s.noSlot Record.isMatching ↔ s.classExhausted :=
  forall₂_congr fun _ _ => isMatching_eq_false_iff

/-- The command at a matching slot `m` (R169). -/
theorem commit_ok {m : Nat} (hl : s.cfg.legal = true) (hok : s.okFor (m + 2)) (hn : n.toNat ≤ 8)
    (hw : wdata.length = 8) (hm : s.firstSlot Record.isMatching m) :
    writeBody n wdata s.accepted =
      (((((s.begun .wrScan).scanned 0 m).setSeq .wrCommit).holding
        (rewritten s.cfg (s.slotRec m) n.toNat wdata)).programmed m).finishWrite := by
  obtain ⟨_, _, _, _, hcount⟩ := Config.legal_bounds hl
  have hlt : m < s.cfg.recordCount := hm.1
  have hscan : writeBody n wdata s.accepted = commit n wdata ((s.begun .wrScan).scanned 0 m) :=
    scan_begun_found .wrScan hl (hok.mono (by omega)) hm
  have hsealed := State.updated_sealed (u := ((s.begun .wrScan).scanned 0 m).setSeq .wrCommit) (sized_slotRec s m) hn hw
  have hlen := length_encodeRecord (sized_rewritten (sized_slotRec s m) hn hw)
  have hprog := progSlot_ok (s := (((s.begun .wrScan).scanned 0 m).setSeq .wrCommit).holding
    (rewritten s.cfg (s.slotRec m) n.toNat wdata)) hlt hlen (State.okFor.drop (k := 1) (m + 1) hok rfl).nextAnswer
  rw [hscan, commit, hsealed, show ((s.begun .wrScan).scanned 0 m).ptr = BitVec.ofNat 16 m from rfl,
    ptr_toNat (by omega)]
  exact congrArg (Flow.andThen · State.finishWrite) hprog

/-- What the command leaves at a matching slot `m` that takes the record `r` (R169). -/
def State.committed (s : State) (m : Nat) (r : Record) : State :=
  { s with
    status := .ok, rlen := 0, rdata := rep 0x00 8
    resp := some (.store .ok 0 (rep 0x00 8))
    ptr := BitVec.ofNat 16 m, img := encodeRecord s.cfg r, record := r, crc := r.checksum ^^^ 0xFFFFFFFF
    rgn := s.rgn.program (s.cfg.slotOff m) (encodeRecord s.cfg r)
    written := { crc := true, record := true, img := true, ptr := true }
    trace := scanTrace s.cfg m ++ [.prog (s.cfg.slotOff m) (encodeRecord s.cfg r)]
    answers := s.answers.drop (m + 2) }

theorem exec_cfgWrite_found {m : Nat} (hl : s.cfg.legal = true) (hr : s.ready) (hok : s.okFor (m + 2))
    (hn : n.toNat ≤ 8) (hw : wdata.length = 8) (hm : s.firstSlot Record.isMatching m) :
    exec (.cfgWrite true n wdata) s =
      .next (s.committed m (rewritten s.cfg (s.slotRec m) n.toNat wdata)) := by
  rw [exec_cfgWrite_body hr hn, commit_ok hl hok hn hw hm, State.begun_scanned, State.committed, hr.1,
    ← List.tail_drop (l := s.answers) (i := m + 1)]
  rfl

/-- The write scan past its last slot (R169). -/
def State.passed (s : State) : State :=
  { s with
    seq := .wrScan
    ptr := BitVec.ofNat 16 s.cfg.recordCount
    img := s.slotImg (s.cfg.recordCount - 1)
    record := s.slotRec (s.cfg.recordCount - 1)
    trace := scanTrace s.cfg (s.cfg.recordCount - 1)
    answers := s.answers.drop s.cfg.recordCount
    written := { s.written with record := true, img := true, ptr := true } }

theorem writeBody_noSlot (hl : s.cfg.legal = true) (hok : s.okFor s.cfg.recordCount)
    (hno : s.noSlot Record.isMatching) : writeBody n wdata s.accepted = compact n wdata s.passed := by
  have hpassed : ((s.begun .wrScan).scanned 0 (s.cfg.recordCount - 1)).setPtr (BitVec.ofNat 16 s.cfg.recordCount) =
      s.passed := by
    rw [State.begun_scanned, Nat.sub_add_cancel (Config.recordCount_pos_of_legal hl)]
    rfl
  rw [← hpassed]
  exact scan_begun_exhausted .wrScan hl hok hno

/-- Compaction past its first stage: every slot read, the region erased (R168). -/
def State.wiped (s : State) : State :=
  { s with
    seq := .cpErase
    ptr := BitVec.ofNat 16 s.cfg.recordCount
    img := s.slotImg (s.cfg.recordCount - 1)
    record := s.slotRec (s.cfg.recordCount - 1)
    rgn := (RgnRequest.erase 0 s.cfg.regionSize).apply s.rgn
    trace := scanTrace s.cfg (s.cfg.recordCount - 1) ++ [.erase 0 s.cfg.regionSize]
    answers := s.answers.drop (s.cfg.recordCount + 1)
    written := { s.written with record := true, img := true, ptr := true } }

/-- Compaction past its second stage, at its third: slot 0 programmed with `r`, `ptr` at slot 1 (R168). -/
def State.compacting (s : State) (r : Record) : State :=
  { s with
    seq := .cpReinit
    ptr := 1
    rgn := (RgnRequest.prog 0 (encodeRecord s.cfg r)).apply ((RgnRequest.erase 0 s.cfg.regionSize).apply s.rgn)
    trace := scanTrace s.cfg (s.cfg.recordCount - 1) ++ [.erase 0 s.cfg.regionSize] ++
      [.prog 0 (encodeRecord s.cfg r)]
    answers := s.answers.drop (s.cfg.recordCount + 2)
    written := { s.written with ptr := true } }

theorem compactErase_ok (hok : s.okFor (s.cfg.recordCount + 1)) :
    storeAccess (.erase 0 s.passed.cfg.regionSize) (s.passed.setSeq .cpErase) (fun _ t => t) = .go s.wiped := by
  have hnext : s.passed.nextAnswer = .ok := (State.okFor.drop (k := 1) s.cfg.recordCount hok rfl).nextAnswer
  rw [storeAccess_ok (s := s.passed.setSeq .cpErase) (eraseAll_inRange s.passed.cfg)
      (State.answerTo_ok.2 (.inr hnext)), State.wiped, ← List.tail_drop]
  rfl

theorem compactSlot0_ok (hl : s.cfg.legal = true) (hok : s.okFor (s.cfg.recordCount + 2)) (hn : n.toNat ≤ 8)
    (hw : wdata.length = 8) {r : Record} (hr : rewritten s.cfg s.cfg.erasedRecord n.toNat wdata = r) :
    ∃ v, compactSlot0 n wdata s.wiped = .go v ∧ (v.setSeq .cpReinit).setPtr 1 = (s.compacting r).holding r := by
  have hlen : (encodeRecord s.cfg r).length = s.cfg.recordSize :=
    hr ▸ length_encodeRecord (sized_rewritten (sized_erasedRecord s.cfg) hn hw)
  have hsealed : ((s.wiped.setSeq .cpSlot0).loadErased.updated n.toNat wdata).sealed =
      (s.wiped.setSeq .cpSlot0).holding r := by
    rw [State.loadErased_updated_sealed _ hn hw, ← hr]
    rfl
  have hprog := progSlot_ok (s := ((s.wiped.setSeq .cpSlot0).holding r).setPtr 0)
    (Config.recordCount_pos_of_legal hl) hlen (State.okFor.drop (k := 1) (s.cfg.recordCount + 1) hok rfl).nextAnswer
  refine ⟨_, by rw [compactSlot0, hsealed, hprog], ?_⟩
  rw [State.programmed, Config.slotOff_zero, State.compacting, ← List.tail_drop]
  rfl

/-- The record of the last slot compaction programs (R168). -/
def lastRecord (c : Config) (r : Record) : Record :=
  if c.recordCount - 1 = 0 then r else reinitRecord c

/-- The command with no matching slot (R168, R169). -/
theorem compact_ok (hl : s.cfg.legal = true) (hok : s.okFor (2 * s.cfg.recordCount + 1)) (hn : n.toNat ≤ 8)
    (hw : wdata.length = 8) (hno : s.noSlot Record.isMatching) {r : Record}
    (hr : rewritten s.cfg s.cfg.erasedRecord n.toNat wdata = r) :
    writeBody n wdata s.accepted =
      ((((s.compacting r).reinited 1 (s.cfg.recordCount - 1)).holding (lastRecord s.cfg r)).setPtr 0).finishWrite := by
  obtain ⟨_, _, _, hpos, hcount⟩ := Config.legal_bounds hl
  obtain ⟨v, hslot0, hv⟩ := compactSlot0_ok hl (hok.mono (by omega)) hn hw hr
  have hcfg : v.cfg = s.cfg := by simpa [State.holding, State.compacting] using congrArg State.cfg hv
  have hreinit : reinitSlots (s.cfg.recordCount - 1) ((s.compacting r).holding r) =
      .go (((s.compacting r).reinited 1 (s.cfg.recordCount - 1)).holding (lastRecord s.cfg r)) :=
    reinitSlots_ok (s.cfg.recordCount - 1) (s.compacting r) 1 r hcount
      (State.okFor.drop (s.cfg.recordCount + 2) (hok.mono (by omega)) rfl) rfl rfl (Nat.add_sub_cancel' hpos)
  rw [writeBody_noSlot hl (hok.mono (by omega)) hno, compact, compactErase_ok (hok.mono (by omega)),
    Flow.andThen_go, hslot0, Flow.andThen_go, hcfg, hv, hreinit, Flow.andThen_go]

end Sys2Proof.Machine
end

section
open Sys2Proof Sys2Proof.Machine

/-- Settles O47: the scan loads the first matching slot, and one program puts its rewritten record back. -/
theorem cfgWriteCommitsFirstMatch : Obligations.CfgWriteCommitsFirstMatch := by
  intro s n wdata m hlegal hr hok hwf hn hw hm r image
  have hlen : image.length = s.cfg.recordSize := length_encodeRecord (sized_rewritten (sized_slotRec s m) hn hw)
  refine ⟨s.rgn.program (s.cfg.slotOff m) image, fun a => ?_, exec_cfgWrite_found hlegal hr hok hn hw hm⟩
  rw [Memory.read_program hwf, hlen]
  rfl

/-- Settles O48: the erased region takes slot 0's new record and `encode(REINIT_REC)` in every later slot. -/
theorem cfgWriteCompacts : Obligations.CfgWriteCompacts := by
  intro s n wdata hlegal hr hok hwf hn hw hexhausted r size count last
  have hno := State.noSlot_isMatching_iff.2 hexhausted
  have hpos : 0 < count := Config.recordCount_pos_of_legal hlegal
  have hlast : lastRecord s.cfg r = last := if_congr (by omega) rfl rfl
  have hlen : (encodeRecord s.cfg r).length = size :=
    length_encodeRecord (sized_rewritten (sized_erasedRecord s.cfg) hn hw)
  have herased := (RgnRequest.erase 0 s.cfg.regionSize).apply_wf hwf
  have hfit : count * size ≤ s.cfg.regionSize := Nat.div_mul_le_self _ _
  have hfirst : size ≤ count * size := Nat.le_mul_of_pos_left _ hpos
  refine ⟨((s.compacting r).reinited 1 (count - 1)).rgn, fun a => ?_, ?_⟩
  · have hstored : ((s.compacting r).reinited 1 (count - 1)).rgn.read a =
        if 1 * size ≤ a ∧ a < (1 + (count - 1)) * size then
          (encodeRecord s.cfg (reinitRecord s.cfg)).getD (a % size) erasedByte
        else ((RgnRequest.prog 0 (encodeRecord s.cfg r)).apply
          ((RgnRequest.erase 0 s.cfg.regionSize).apply s.rgn)).read a :=
      read_reinitProgs (RgnRequest.apply_wf herased _) 1 (count - 1) a
    rw [hstored, RgnRequest.read_apply herased, RgnRequest.read_apply_erase hwf, Nat.add_sub_cancel' hpos]
    simp only [RgnRequest.off, RgnRequest.newBytes, hlen, Nat.sub_zero, Nat.zero_le, Nat.zero_add, true_and,
      Nat.one_mul]
    by_cases h0 : a < size
    · rw [if_neg (by omega), if_pos h0, if_pos h0]
      rfl
    · rw [if_neg h0, if_neg h0]
      by_cases hlater : a < count * size
      · rw [if_pos ⟨Nat.le_of_not_lt h0, hlater⟩, if_pos hlater]
        rfl
      · rw [if_neg (fun h => hlater h.2), if_neg hlater]
        rfl
  · have hanswers : s.answers.drop (2 * count + 1) = (s.answers.drop (s.cfg.recordCount + 2)).drop (count - 1) := by
      rw [List.drop_drop, show s.cfg.recordCount + 2 + (count - 1) = 2 * count + 1 by omega]
    rw [exec_cfgWrite_body hr hn, compact_ok hlegal hok hn hw hno rfl, hlast, hr.1, hanswers]
    rfl

end

section
/-! What a successful CFG.WRITE leaves for the commands after it (spec 43_block_store.md R173 to R176): one slot holds the
rewritten record, and what the other slots hold depends on the way the command ended. -/

namespace Sys2Proof.Machine

variable {s t : State} {c : Config} {n : Byte} {wdata : List Byte} {m k : Nat}

/-! ### Rewritten records -/

/-- A rewritten record is sealed, so it is valid (R163). -/
theorem recordValid_rewritten {old : Record} (h : old.sized c = true) (hn : n.toNat ≤ 8) (hw : wdata.length = 8) :
    recordValid c (rewritten c old n.toNat wdata) = true := by
  have hsized := sized_rewritten h hn hw
  exact recordValid_sealedRecord (r := { rewritten c old n.toNat wdata with checksum := old.checksum }) hsized

/-- Rewriting with the same bytes a second time changes nothing (R174). -/
theorem rewritten_rewritten {old : Record} (h : old.sized c = true) (hn : n.toNat ≤ 8) (hw : wdata.length = 8) :
    rewritten c (rewritten c old n.toNat wdata) n.toNat wdata = rewritten c old n.toNat wdata := by
  have hpayload : wdata.take n.toNat ++ (wdata.take n.toNat ++ old.payloadA.drop n.toNat).drop n.toNat =
      wdata.take n.toNat ++ old.payloadA.drop n.toNat := by
    rw [List.drop_left' (List.length_take_of_le (by omega))]
  show sealedRecord c { rewritten c old n.toNat wdata with
    payloadA := wdata.take n.toNat ++ (wdata.take n.toNat ++ old.payloadA.drop n.toNat).drop n.toNat } = _
  rw [hpayload]
  exact congrArg (fun v => ({ rewritten c old n.toNat wdata with checksum := v } : Record))
    (recordCsum_checksum (r := { rewritten c old n.toNat wdata with checksum := old.checksum })
      (sized_rewritten h hn hw) _)

/-- The first bytes of a rewritten payload are the new ones (R166). -/
theorem readBack_rewritten_take (old : Record) (hn : n.toNat ≤ 8) (hw : wdata.length = 8) :
    (readBack (rewritten c old n.toNat wdata).payloadA n.toNat).take n.toNat = wdata.take n.toNat := by
  have hlen : (wdata.take n.toNat).length = n.toNat := List.length_take_of_le (by omega)
  have hpayload : (rewritten c old n.toNat wdata).payloadA.take n.toNat = wdata.take n.toNat := List.take_left' hlen
  rw [readBack, hpayload, List.take_left' hlen]

theorem rewritten_isMatching (c : Config) (old : Record) (n : Nat) (wdata : List Byte) :
    Record.isMatching (rewritten c old n wdata) = true := by
  simp [Record.isMatching, rewritten]

theorem rewritten_occupied (c : Config) (old : Record) (n : Nat) (wdata : List Byte) :
    Record.occupied (rewritten c old n wdata) = true := by
  simp [Record.occupied, rewritten, erasedId_ne_writtenId.symm]

theorem isMatching_iff {r : Record} :
    Record.isMatching r = true ↔ r.blockId = erasedId ∨ r.blockId = writtenId := by
  simp [Record.isMatching]

theorem blockId_reinitRecord (c : Config) : (reinitRecord c).blockId = erasedId := by
  rw [reinitRecord, erasedRecord_eq]
  rfl

theorem occupied_of_not_isMatching {r : Record} (h : Record.isMatching r = false) : Record.occupied r = true := by
  simp [Record.occupied, (isMatching_eq_false_iff.1 h).1]

/-! ### Slots -/

/-- Storing the bytes that stand in a range changes nothing (R65). -/
theorem Memory.program_readBytes {mem : Memory} (hm : mem.wf) (off cnt : Nat) :
    mem.program off (mem.readBytes off cnt) = mem := by
  refine Memory.ext_read (Memory.program_wf hm _ _) hm fun a => ?_
  rw [Memory.read_program hm, Memory.length_readBytes]
  split
  · next ha =>
    rw [List.getD_eq_getElem?_getD, Memory.getElem?_readBytes, if_pos (by omega), Option.getD_some,
      Nat.add_sub_cancel' ha.1]
  · rfl

theorem State.slotRec_eq {r : Record} {i : Nat} (hsized : r.sized s.cfg = true)
    (h : s.slotImg i = encodeRecord s.cfg r) : s.slotRec i = r := by
  rw [State.slotRec, h, decodeRecord_encodeRecord hsized]

/-- A program of one slot leaves the others (R53). -/
theorem slotBytes_program_ne {mem : Memory} (hm : mem.wf) {img : List Byte} (hlen : img.length = c.recordSize)
    {i j : Nat} (hij : i ≠ j) :
    (mem.program (c.slotOff j) img).readBytes (c.slotOff i) c.recordSize =
      mem.readBytes (c.slotOff i) c.recordSize := by
  refine Memory.readBytes_program_disjoint hm ?_
  rw [hlen]
  obtain hlt | hlt := Nat.lt_or_gt_of_ne hij
  · exact .inl (Config.slot_disjoint hlt)
  · exact .inr (Config.slot_disjoint hlt)

/-- `t` is what a CFG.WRITE of `n` bytes left when `k` of its requests had succeeded: slot `m` rewritten from `old`. -/
structure State.Wrote (s t : State) (n : Byte) (wdata : List Byte) (m k : Nat) (old : Record) : Prop where
  exec : exec (.cfgWrite true n wdata) s = .next t
  cfg : t.cfg = s.cfg
  ready : t.ready
  memWf : t.rgn.wf
  status : t.status = .ok
  answers : t.answers = s.answers.drop k
  slot : t.slotRec m = rewritten s.cfg old n.toNat wdata
  sized : old.sized s.cfg = true

/-- A write that found slot `m` programs that slot alone (R169). -/
theorem commit_wrote (hl : s.cfg.legal = true) (hr : s.ready) (hwf : s.rgn.wf) (hok : s.okFor (m + 2))
    (hn : n.toNat ≤ 8) (hw : wdata.length = 8) (hm : s.firstSlot Record.isMatching m) :
    ∃ t, s.Wrote t n wdata m (m + 2) (s.slotRec m) ∧ t.ptr = BitVec.ofNat 16 m ∧
      t.rgn = s.rgn.program (s.cfg.slotOff m) (encodeRecord s.cfg (rewritten s.cfg (s.slotRec m) n.toNat wdata)) ∧
      ∀ i ≠ m, t.slotRec i = s.slotRec i := by
  have hsized := sized_rewritten (sized_slotRec s m) hn hw
  have hlen := length_encodeRecord hsized
  refine ⟨_, ⟨exec_cfgWrite_found hl hr hok hn hw hm, rfl, hr, Memory.program_wf hwf _ _, rfl, rfl, ?_,
    sized_slotRec s m⟩, rfl, rfl, fun i hi => ?_⟩
  · refine State.slotRec_eq hsized ?_
    show (s.rgn.program _ _).readBytes (s.cfg.slotOff m) s.cfg.recordSize = _
    rw [← hlen]
    exact Memory.readBytes_program hwf _ _
  · exact congrArg (decodeRecord s.cfg) (slotBytes_program_ne hwf hlen hi)

/-- A write that compacted leaves its record in slot 0 and `REINIT_REC` in every later slot (R168). -/
theorem compact_wrote (hl : s.cfg.legal = true) (hr : s.ready) (hwf : s.rgn.wf)
    (hok : s.okFor (2 * s.cfg.recordCount + 1)) (hn : n.toNat ≤ 8) (hw : wdata.length = 8)
    (hno : s.noSlot Record.isMatching) :
    ∃ t, s.Wrote t n wdata 0 (2 * s.cfg.recordCount + 1) s.cfg.erasedRecord ∧
      ∀ i < s.cfg.recordCount, 1 ≤ i → t.slotRec i = reinitRecord s.cfg := by
  obtain ⟨mem, hread, hexec⟩ := cfgWriteCompacts s n wdata hl hr hok hwf hn hw (State.noSlot_isMatching_iff.1 hno)
  have hmem : mem.wf := (storeCommandFrame s _ true n wdata hl (.inr hexec)).2.2.2 hwf
  have hsized := sized_rewritten (sized_erasedRecord s.cfg) hn hw
  have hfit : ∀ i < s.cfg.recordCount, s.cfg.slotOff i + s.cfg.recordSize ≤ s.cfg.recordCount * s.cfg.recordSize :=
    fun i hi => (Config.slot_inside hi).1
  refine ⟨_, ⟨hexec, rfl, hr, hmem, rfl, rfl, State.slotRec_eq hsized ?_, sized_erasedRecord s.cfg⟩, fun i hi hpos => ?_⟩
  · show mem.readBytes (s.cfg.slotOff 0) s.cfg.recordSize = _
    rw [← length_encodeRecord hsized]
    refine Memory.readBytes_eq fun k hk => ?_
    rw [length_encodeRecord hsized] at hk
    rw [hread, Config.slotOff_zero, Nat.zero_add, if_pos hk]
    exact List.getD_eq_getElem _ _ _
  · refine State.slotRec_eq (sized_reinitRecord s.cfg) ?_
    have hlen := length_encodeRecord (sized_reinitRecord s.cfg)
    show mem.readBytes (s.cfg.slotOff i) s.cfg.recordSize = _
    rw [← hlen]
    refine Memory.readBytes_eq fun k hk => ?_
    rw [hlen] at hk
    have hslot := hfit i hi
    have hlater : s.cfg.recordSize ≤ s.cfg.slotOff i := Nat.le_mul_of_pos_left _ hpos
    have hmod : (s.cfg.slotOff i + k) % s.cfg.recordSize = k := by
      rw [Config.slotOff, Nat.mul_add_mod_self_right, Nat.mod_eq_of_lt hk]
    rw [hread, if_neg (by omega), if_pos (by omega), hmod]
    exact List.getD_eq_getElem _ _ _

/-- The slot a write left matches, and it is the first to do so if none before it did. -/
theorem State.Wrote.firstSlot {old : Record} (h : s.Wrote t n wdata m k old) (hm : m < s.cfg.recordCount)
    (hbefore : ∀ i < m, Record.isMatching (t.slotRec i) = false) : t.firstSlot Record.isMatching m :=
  ⟨h.cfg ▸ hm, by rw [h.slot]; exact rewritten_isMatching _ _ _ _, hbefore⟩

/-- CFG.READ after a write of slot 0 returns the bytes written (R173). -/
theorem State.Wrote.read {old : Record} (h : s.Wrote t n wdata 0 k old) (hl : s.cfg.legal = true)
    (hok : s.okFor (k + 1)) (hn : n.toNat ≤ 8) (hw : wdata.length = 8) :
    ∃ u, Machine.exec (.cfgRead true n) t = .next u ∧ u.status = .ok ∧ u.rlen = n.setWidth 4 ∧
      u.rdata.take n.toNat = wdata.take n.toNat := by
  have hfirst : t.firstSlot Record.occupied 0 :=
    ⟨h.cfg ▸ Config.recordCount_pos_of_legal hl, by rw [h.slot]; exact rewritten_occupied _ _ _ _, nofun⟩
  have hvalid : recordValid t.cfg (t.slotRec 0) = true := by
    rw [h.slot, h.cfg]
    exact recordValid_rewritten h.sized hn hw
  refine ⟨_, cfgReadReturnsFirstOccupied t n 0 (h.cfg ▸ hl) h.ready (hok.drop k h.answers) hn hfirst
    fun _ => hvalid, rfl, rfl, ?_⟩
  show (readBack (t.slotRec 0).payloadA n.toNat).take n.toNat = _
  rw [h.slot]
  exact readBack_rewritten_take old hn hw

/-- A second write of the same bytes finds its own record and leaves the region (R174). -/
theorem State.Wrote.again {old : Record} (h : s.Wrote t n wdata m k old) (hl : s.cfg.legal = true)
    (hok : s.okFor (k + (m + 2))) (hn : n.toNat ≤ 8) (hw : wdata.length = 8) (hm : t.firstSlot Record.isMatching m) :
    ∃ u, Machine.exec (.cfgWrite true n wdata) t = .next u ∧ u.rgn = t.rgn ∧ u.status = .ok := by
  obtain ⟨u, hu, _, hrgn, _⟩ := commit_wrote (h.cfg ▸ hl) h.ready h.memWf (hok.drop k h.answers) hn hw hm
  have himg : encodeRecord t.cfg (rewritten t.cfg (t.slotRec m) n.toNat wdata) = t.slotImg m := by
    have hsame : rewritten t.cfg (t.slotRec m) n.toNat wdata = t.slotRec m := by
      rw [h.slot, h.cfg, rewritten_rewritten h.sized hn hw]
    rw [hsame]
    exact encodeRecord_decodeRecord (Memory.length_readBytes _ _ _)
  refine ⟨u, hu.exec, ?_, hu.status⟩
  rw [hrgn, himg]
  exact Memory.program_readBytes h.memWf _ _

end Sys2Proof.Machine
end

section
open Sys2Proof Sys2Proof.Machine

/-- Settles O50: either way the write leaves its bytes in slot 0, which the read then finds first. -/
theorem writeThenReadReturnsBytes : Obligations.WriteThenReadReturnsBytes := by
  intro s n wdata hlegal hr hwf hn hw h
  obtain ⟨hm, hok⟩ | ⟨hno, hok⟩ := h
  · obtain ⟨t, ht, _⟩ := commit_wrote hlegal hr hwf (hok.mono (by omega)) hn hw hm
    obtain ⟨u, hu⟩ := ht.read hlegal hok hn hw
    exact ⟨t, u, ht.exec, hu⟩
  · obtain ⟨t, ht, _⟩ := compact_wrote hlegal hr hwf (hok.mono (by omega)) hn hw hno
    obtain ⟨u, hu⟩ := ht.read hlegal hok hn hw
    exact ⟨t, u, ht.exec, hu⟩

/-- Settles O51: slot 0 is occupied, and the write leaves it. -/
theorem staleReadBehindIrregularSlot : Obligations.StaleReadBehindIrregularSlot := by
  intro s n k wdata m hlegal hr hok hwf hn hk hw hverify hpos hm
  obtain ⟨t, ht, hptr, _, hothers⟩ := commit_wrote hlegal hr hwf (hok.mono (by omega)) hn hw hm
  have hzero : t.slotRec 0 = s.slotRec 0 := hothers 0 (by omega)
  have hfirst : t.firstSlot Record.occupied 0 := by
    refine ⟨ht.cfg ▸ Config.recordCount_pos_of_legal hlegal, ?_, nofun⟩
    rw [hzero]
    exact occupied_of_not_isMatching (hm.2.2 0 hpos)
  have hread := cfgReadReturnsFirstOccupied t k 0 (ht.cfg ▸ hlegal) ht.ready (hok.drop (m + 2) ht.answers) hk hfirst
    fun hv => absurd (hverify.symm.trans ((congrArg Config.verifyOnRead ht.cfg.symm).trans hv)) Bool.false_ne_true
  refine ⟨t, _, ht.exec, hread, hptr, rfl, rfl, ?_⟩
  rw [hzero]

/-- Settles O52: the second write finds the first one's record before any other that matches. -/
theorem repeatedWriteLeavesRegion : Obligations.RepeatedWriteLeavesRegion := by
  intro s n wdata hlegal hr hwf hn hw h
  obtain ⟨m, hm, hok⟩ | ⟨hno, hok⟩ := h
  · obtain ⟨t, ht, _, _, hothers⟩ := commit_wrote hlegal hr hwf (hok.mono (by omega)) hn hw hm
    have hfirst := ht.firstSlot hm.1 fun i hi => by
      rw [hothers i (Nat.ne_of_lt hi)]
      exact hm.2.2 i hi
    obtain ⟨u, hu⟩ := ht.again hlegal (hok.mono (by omega)) hn hw hfirst
    exact ⟨t, u, ht.exec, hu⟩
  · obtain ⟨t, ht, _⟩ := compact_wrote hlegal hr hwf (hok.mono (by omega)) hn hw hno
    have hfirst := ht.firstSlot (Config.recordCount_pos_of_legal hlegal) nofun
    obtain ⟨u, hu⟩ := ht.again hlegal (hok.mono (by omega)) hn hw hfirst
    exact ⟨t, u, ht.exec, hu⟩

/-- Settles O54: slot 0 takes the written marker, and every later slot keeps or takes the erased sentinel. -/
theorem writeLeadsToClassWritten : Obligations.WriteLeadsToClassWritten := by
  intro s n wdata hlegal hr hwf hn hw h
  have hpos := Config.recordCount_pos_of_legal hlegal
  obtain ⟨hclass, hok⟩ | ⟨hexhausted, hok⟩ := h
  · have hzero : Record.isMatching (s.slotRec 0) = true := isMatching_iff.2 (hclass.imp (fun he => he 0 hpos) And.left)
    have herased : ∀ i < s.cfg.recordCount, 1 ≤ i → s.slotId i = erasedId := by
      obtain he | ⟨_, he⟩ := hclass
      · exact fun i hi _ => he i hi
      · exact he
    obtain ⟨t, ht, _, _, hothers⟩ := commit_wrote hlegal hr hwf hok hn hw ⟨hpos, hzero, nofun⟩
    refine ⟨t, ht.exec, ht.status, congrArg Record.blockId ht.slot, fun i hi hi' => ?_⟩
    exact (congrArg Record.blockId (hothers i (by omega))).trans (herased i (ht.cfg ▸ hi) hi')
  · obtain ⟨t, ht, hothers⟩ := compact_wrote hlegal hr hwf hok hn hw (State.noSlot_isMatching_iff.2 hexhausted)
    refine ⟨t, ht.exec, ht.status, congrArg Record.blockId ht.slot, fun i hi hi' => ?_⟩
    refine (congrArg Record.blockId (hothers i (ht.cfg ▸ hi) hi')).trans ?_
    exact blockId_reinitRecord s.cfg

end

section
/-! Where a store command can be cut off (spec 43_block_store.md R172, R179, 60_exceptions.md R203): each stage with the
requests that succeeded before it, the request it makes, and what the registers hold there. -/

namespace Sys2Proof.Machine

variable {s u t : State} {n : Byte} {wdata : List Byte}

/-! ### The stages -/

/-- The record CFG.WRITE programs over `old` (R166, R163), whatever the length of the side band. -/
def updatedRecord (c : Config) (old : Record) (n : Byte) (wdata : List Byte) : Record :=
  sealedRecord c { old with blockId := writtenId, payloadA := overlay n.toNat wdata old.payloadA }

theorem updatedRecord_eq_rewritten {c : Config} {old : Record} (h : old.sized c = true) (hn : n.toNat ≤ 8)
    (hw : wdata.length = 8) : updatedRecord c old n wdata = rewritten c old n.toNat wdata := by
  obtain ⟨ha, _, _⟩ := Record.sized_iff.1 h
  rw [updatedRecord, overlay_eq (by omega) (by omega)]
  rfl

theorem sized_updatedRecord {c : Config} {old : Record} (h : old.sized c = true) :
    (updatedRecord c old n wdata).sized c = true := by
  obtain ⟨ha, hb, hr⟩ := Record.sized_iff.1 h
  exact Record.sized_iff.2 ⟨(length_overlay _ _ _).trans ha, hb, hr⟩

/-- The codec unit holds the sealed record `r` (R163), `ptr` is `i` and the sequencer in `q`. -/
structure State.HoldsAt (u : State) (c : Config) (r : Record) (i : Nat) (q : Seq) : Prop where
  record : u.record = r
  img : u.img = encodeRecord c r
  crc : u.crc = r.checksum ^^^ 0xFFFFFFFF
  ptr : u.ptr = BitVec.ofNat 16 i
  seq : u.seq = q

/-- The erase of compaction (R168). -/
def eraseAll (c : Config) : RgnRequest := .erase 0 c.regionSize

/-- The program of slot `i` with a record's image (R162). -/
def slotProg (c : Config) (i : Nat) (r : Record) : RgnRequest := .prog (c.slotOff i) (encodeRecord c r)

/-- The requests of compaction up to its second stage (R168, R179). -/
def compactReads (c : Config) : List RgnRequest := slotReads c c.recordCount ++ [eraseAll c]

/-- A stage of CFG.WRITE that began in `s`: in `u`, its requests `done` having succeeded, it makes the request `q`. -/
inductive State.WriteStage (s : State) (n : Byte) (wdata : List Byte) :
    State → List RgnRequest → RgnRequest → Prop where
  | scan (u : State) (i : Nat) : i < s.cfg.recordCount → (∀ j < i, Record.isMatching (s.slotRec j) = false) →
      s.Scanning u .wrScan i i → s.WriteStage n wdata u (slotReads s.cfg i) (Config.slotRead s.cfg i)
  | commit (u : State) (m : Nat) : s.firstSlot Record.isMatching m → s.After u (slotReads s.cfg (m + 1)) →
      u.HoldsAt s.cfg (updatedRecord s.cfg (s.slotRec m) n wdata) m .wrCommit →
      s.WriteStage n wdata u (slotReads s.cfg (m + 1))
        (slotProg s.cfg m (updatedRecord s.cfg (s.slotRec m) n wdata))
  | erase (u : State) : s.noSlot Record.isMatching →
      s.Scanning u .cpErase s.cfg.recordCount s.cfg.recordCount →
      s.WriteStage n wdata u (slotReads s.cfg s.cfg.recordCount) (eraseAll s.cfg)
  | slot0 (u : State) : s.noSlot Record.isMatching → s.After u (compactReads s.cfg) →
      u.HoldsAt s.cfg (updatedRecord s.cfg s.cfg.erasedRecord n wdata) 0 .cpSlot0 →
      s.WriteStage n wdata u (compactReads s.cfg)
        (slotProg s.cfg 0 (updatedRecord s.cfg s.cfg.erasedRecord n wdata))
  | reinit (u : State) (k : Nat) : s.noSlot Record.isMatching → k + 1 < s.cfg.recordCount →
      s.After u (compactReads s.cfg ++ [slotProg s.cfg 0 (updatedRecord s.cfg s.cfg.erasedRecord n wdata)] ++
        reinitProgs s.cfg 1 k) →
      u.HoldsAt s.cfg (reinitRecord s.cfg) (k + 1) .cpReinit →
      s.WriteStage n wdata u
        (compactReads s.cfg ++ [slotProg s.cfg 0 (updatedRecord s.cfg s.cfg.erasedRecord n wdata)] ++
          reinitProgs s.cfg 1 k)
        (slotProg s.cfg (k + 1) (reinitRecord s.cfg))

theorem State.WriteStage.after {done : List RgnRequest} {q : RgnRequest} (h : s.WriteStage n wdata u done q) :
    s.After u done := by
  cases h with
  | scan _ _ _ hscan => exact hscan.after
  | commit _ _ hafter => exact hafter
  | erase _ hscan => exact hscan.after
  | slot0 _ hafter => exact hafter
  | reinit _ _ _ hafter => exact hafter

/-- The requests of a command that came to its end, by what its scan met (R179). -/
def State.Served (s : State) (test : Record → Bool) (found passed k : Nat) : Prop :=
  s.okFor k ∧ (∀ m, s.firstSlot test m → k = m + found) ∧ (s.noSlot test → k = passed)

theorem State.firstSlot.not_noSlot {test : Record → Bool} {m : Nat} (h : s.firstSlot test m) : ¬ s.noSlot test :=
  fun hno => Bool.false_ne_true ((hno m h.1).symm.trans h.2.1)

theorem State.firstSlot.unique {test : Record → Bool} {m m' : Nat} (h : s.firstSlot test m)
    (h' : s.firstSlot test m') : m = m' := by
  obtain ⟨_, htest, hbefore⟩ := h
  obtain ⟨_, htest', hbefore'⟩ := h'
  obtain hlt | heq | hlt := Nat.lt_trichotomy m m'
  · exact absurd ((hbefore' m hlt).symm.trans htest) Bool.false_ne_true
  · exact heq
  · exact absurd ((hbefore m' hlt).symm.trans htest') Bool.false_ne_true

theorem State.Served.of_found {test : Record → Bool} {m found passed : Nat} (hok : s.okFor (m + found))
    (hm : s.firstSlot test m) : s.Served test found passed (m + found) :=
  ⟨hok, fun _ hm' => by rw [hm.unique hm'], fun hno => absurd hno hm.not_noSlot⟩

theorem State.Served.of_noSlot {test : Record → Bool} {found passed : Nat} (hok : s.okFor passed)
    (hno : s.noSlot test) : s.Served test found passed passed :=
  ⟨hok, fun _ hm => absurd hno hm.not_noSlot, fun _ => rfl⟩

/-- How CFG.WRITE leaves the machine: cut off at a stage, or at its end with its requests served. -/
def State.WriteOutcome (s : State) (n : Byte) (wdata : List Byte) (t : State) : Prop :=
  (∃ u done q, s.WriteStage n wdata u done q ∧ s.CutOff u t done q) ∨
    t.seq = .idle ∧ ∃ k, s.Served Record.isMatching 2 (2 * s.cfg.recordCount + 1) k

/-! ### CFG.WRITE -/

section
variable {done : List RgnRequest}

theorem State.After.setSeq (h : s.After u done) (q : Seq) : s.After (u.setSeq q) done :=
  h.update rfl rfl rfl rfl rfl rfl rfl rfl rfl

theorem State.After.setPtr (h : s.After u done) (p : BitVec 16) : s.After (u.setPtr p) done :=
  h.update rfl rfl rfl rfl rfl rfl rfl rfl rfl

theorem State.After.updated (h : s.After u done) (len : Nat) (w : List Byte) : s.After (u.updated len w) done :=
  h.update rfl rfl rfl rfl rfl rfl rfl rfl rfl

theorem State.After.loadErased (h : s.After u done) : s.After u.loadErased done :=
  h.update rfl rfl rfl rfl rfl rfl rfl rfl rfl

theorem State.After.sealed (h : s.After u done) : s.After u.sealed done :=
  h.update u.sealed_cfg u.sealed_trace u.sealed_answers u.sealed_rgn u.sealed_inflight u.sealed_fault u.sealed_status
    u.sealed_rlen u.sealed_rdata

end

/-- `Seal` leaves the sealed record in the codec unit (R163). -/
theorem State.sealed_holdsAt {c : Config} {i : Nat} (hc : u.cfg = c) (hp : u.ptr = BitVec.ofNat 16 i) :
    u.sealed.HoldsAt c (sealedRecord c u.record) i u.seq := by
  subst hc
  exact ⟨u.sealed_record, u.sealed_img, u.sealed_crc.trans (crcRun_eq _), u.sealed_ptr.trans hp, u.sealed_seq⟩

/-- One program of a command's slot `i`: it succeeds, or the command is cut off there. -/
theorem progSlot_outcome {done : List RgnRequest} {i : Nat} {r : Record} {q : Seq} {k : State → State}
    {Q : State → Prop} (h : s.After u done) (hu : u.HoldsAt s.cfg r i q) (hr : r.sized s.cfg = true)
    (hi : i < s.cfg.recordCount)
    (hok : ∀ v, s.After v (done ++ [slotProg s.cfg i r]) → v.ptr = u.ptr → v.seq = u.seq → Q (k v))
    (hcut : ∀ t, s.CutOff u t done (slotProg s.cfg i r) → Q t) : Q ((progSlot i u).andThen k) := by
  have himg : RgnRequest.prog (s.cfg.slotOff i) u.img = slotProg s.cfg i r := by rw [hu.img, slotProg]
  refine progSlot_after h hi (by rw [hu.img]; exact length_encodeRecord hr) (fun hv => ?_) (himg ▸ hcut)
  rw [himg] at hv
  exact hok _ hv rfl rfl

/-- CFG.WRITE at a matching slot: cut off at its one program, or served. -/
theorem commit_outcome {m : Nat} (hm : s.firstSlot Record.isMatching m) (hcount : s.cfg.recordCount ≤ 65535)
    (h : s.Scanning u .wrScan m (m + 1)) : s.WriteOutcome n wdata (commit n wdata u) := by
  have hrec : u.record = s.slotRec m := by
    obtain ⟨h0, _⟩ | ⟨i, hi, _, hrec⟩ := h.loaded
    · exact absurd h0 (Nat.succ_ne_zero m)
    · cases hi
      exact hrec
  have hafter : s.After ((u.setSeq .wrCommit).updated n.toNat wdata).sealed (slotReads s.cfg (m + 1)) :=
    ((h.after.setSeq _).updated _ _).sealed
  have hholds : ((u.setSeq .wrCommit).updated n.toNat wdata).sealed.HoldsAt s.cfg
      (updatedRecord s.cfg (s.slotRec m) n wdata) m .wrCommit := by
    rw [updatedRecord, ← hrec]
    exact State.sealed_holdsAt (u := (u.setSeq .wrCommit).updated n.toNat wdata) h.after.cfg h.ptr
  rw [commit, h.ptr, ptr_toNat (Nat.le_trans (Nat.le_of_lt hm.1) hcount)]
  refine progSlot_outcome hafter hholds (sized_updatedRecord (sized_slotRec s m)) hm.1 (fun v hv _ _ => ?_)
    (fun t ht => .inl ⟨_, _, _, .commit _ m hm hafter hholds, ht⟩)
  have hok := hv.okSoFar
  rw [List.length_append, length_slotReads] at hok
  exact .inr ⟨rfl, _, .of_found hok hm⟩

theorem reinitProgs_concat (c : Config) (k : Nat) :
    reinitProgs c 1 (k + 1) = reinitProgs c 1 k ++ [slotProg c (k + 1) (reinitRecord c)] := by
  simp [reinitProgs, List.range'_1_concat, slotProg, Nat.add_comm]

/-- Compaction's third stage: cut off at one of its programs, or served. -/
theorem reinitSlots_outcome (hcount : s.cfg.recordCount ≤ 65535) (hno : s.noSlot Record.isMatching) :
    ∀ (l : Nat) (u : State) (k : Nat), k + 1 + l = s.cfg.recordCount → u.ptr = BitVec.ofNat 16 (k + 1) →
      u.seq = .cpReinit →
      s.After u (compactReads s.cfg ++ [slotProg s.cfg 0 (updatedRecord s.cfg s.cfg.erasedRecord n wdata)] ++
        reinitProgs s.cfg 1 k) →
      s.WriteOutcome n wdata ((reinitSlots l u).andThen fun v => (v.setPtr 0).finishWrite) := by
  intro l
  induction l with
  | zero =>
    intro u k hk _ _ h
    have hok := h.okSoFar
    have hlen : (compactReads s.cfg ++ [slotProg s.cfg 0 (updatedRecord s.cfg s.cfg.erasedRecord n wdata)] ++
        reinitProgs s.cfg 1 k).length = 2 * s.cfg.recordCount + 1 := by
      simp [compactReads, reinitProgs]
      omega
    rw [hlen] at hok
    exact .inr ⟨rfl, _, .of_noSlot hok hno⟩
  | succ l ih =>
    intro u k hk hptr hseq h
    have hafter := h.loadErased.sealed
    have hholds : u.loadErased.sealed.HoldsAt s.cfg (reinitRecord s.cfg) (k + 1) .cpReinit := by
      rw [reinitRecord_eq_sealed, ← hseq, ← h.cfg]
      exact State.sealed_holdsAt (u := u.loadErased) rfl hptr
    rw [reinitSlots_succ, hptr, ptr_toNat (by omega)]
    refine progSlot_outcome hafter hholds (sized_reinitRecord s.cfg) (by omega) (fun v hv hvp hvs => ?_)
      (fun t ht => .inl ⟨_, _, _, .reinit _ k hno (by omega) hafter hholds, ht⟩)
    have hvp' : v.ptr = BitVec.ofNat 16 (k + 1) := by
      rw [hvp, State.sealed_ptr, State.loadErased_ptr, hptr]
    have hvs' : v.seq = .cpReinit := by
      rw [hvs, State.sealed_seq, State.loadErased_seq, hseq]
    rw [List.append_assoc, ← reinitProgs_concat] at hv
    rw [hvp', ptr_succ]
    exact ih _ (k + 1) (by omega) rfl hvs' (hv.setPtr _)

/-- Compaction: cut off at its erase or one of its programs, or served. -/
theorem compact_outcome (hl : s.cfg.legal = true) (hno : s.noSlot Record.isMatching)
    (h : s.Scanning u .wrScan s.cfg.recordCount s.cfg.recordCount) : s.WriteOutcome n wdata (compact n wdata u) := by
  obtain ⟨_, _, _, hpos, hcount⟩ := Config.legal_bounds hl
  have hcfg := h.after.cfg
  have hscan : s.Scanning (u.setSeq .cpErase) .cpErase s.cfg.recordCount s.cfg.recordCount :=
    ⟨h.after.setSeq _, h.ptr, h.crc, rfl, h.rgn, h.loaded⟩
  rw [compact, hcfg]
  refine storeAccess_after hscan.after (q := eraseAll s.cfg) (hcfg ▸ eraseAll_inRange s.cfg) (eraseAll_cnt hl)
    (fun ht => ?_) (fun t ht => .inl ⟨_, _, _, .erase _ hno hscan, ht⟩)
  revert ht
  generalize State.setRgn _ _ = v
  intro ht
  have hafter : s.After ((((v.setSeq .cpSlot0).loadErased.updated n.toNat wdata).sealed).setPtr 0)
      (compactReads s.cfg) := (((ht.setSeq _).loadErased.updated _ _).sealed).setPtr _
  have hholds : ((((v.setSeq .cpSlot0).loadErased.updated n.toNat wdata).sealed).setPtr 0).HoldsAt s.cfg
      (updatedRecord s.cfg s.cfg.erasedRecord n wdata) 0 .cpSlot0 := by
    rw [updatedRecord, ← ht.cfg]
    exact ⟨rfl, rfl, crcRun_eq _, rfl, rfl⟩
  refine progSlot_outcome hafter hholds (sized_updatedRecord (sized_erasedRecord s.cfg)) hpos (fun w hw _ _ => ?_)
    (fun t ht => .inl ⟨_, _, _, .slot0 _ hno hafter hholds, ht⟩)
  refine reinitSlots_outcome hcount hno (w.cfg.recordCount - 1) _ 0 ?_ rfl rfl ?_
  · rw [hw.cfg]
    omega
  · simpa [reinitProgs] using (hw.setSeq _).setPtr _

/-- Everything CFG.WRITE can do past its prologue, by stage (R169, R172). -/
theorem writeBody_outcome (hl : s.cfg.legal = true) (hr : s.ready) :
    s.WriteOutcome n wdata (writeBody n wdata s.accepted) := by
  obtain ⟨_, _, _, _, hcount⟩ := Config.legal_bounds hl
  exact scan_after hcount (fun i u t hi hbefore hscan hcut => .inl ⟨u, _, _, .scan u i hi hbefore hscan, hcut⟩)
    (fun m u hm hscan _ => commit_outcome hm hcount hscan) (fun u hno hscan => compact_outcome hl hno hscan)
    _ _ 0 (.start hr .wrScan) (Nat.zero_add _) nofun

end Sys2Proof.Machine
end

section
/-! What a failing or unanswered request does to a store command (spec 60_exceptions.md R203, 70_reset_and_hazards.md
R241): it is the command's last, and the command comes to it whenever it stands among the command's own requests. -/

namespace Sys2Proof.Machine

variable {s u t : State} {n : Byte} {wdata : List Byte}

/-! ### CFG.READ -/

/-- How CFG.READ leaves the machine: cut off at the read of a slot, or at its end with its requests served. -/
def State.ReadOutcome (s t : State) : Prop :=
  (∃ u i, i < s.cfg.recordCount ∧ (∀ j < i, Record.occupied (s.slotRec j) = false) ∧ s.Scanning u .rdScan i i ∧
    s.CutOff u t (slotReads s.cfg i) (Config.slotRead s.cfg i)) ∨
  t.seq = .idle ∧ ∃ k, s.Served Record.occupied 1 s.cfg.recordCount k

theorem readFound_seq (n : Byte) (u : State) : (readFound n u).seq = .idle := by
  unfold readFound
  cases u.cfg.verifyOnRead with
  | false => rfl
  | true => cases u.validValue <;> rfl

/-- Everything CFG.READ can do past its prologue, by stage (R164, R172). -/
theorem readBody_outcome (hl : s.cfg.legal = true) (hr : s.ready) : s.ReadOutcome (readBody n s.accepted) := by
  obtain ⟨_, _, _, _, hcount⟩ := Config.legal_bounds hl
  refine scan_after hcount (fun i u t hi hbefore hscan hcut => .inl ⟨u, i, hi, hbefore, hscan, hcut⟩)
    (fun m u hm hscan _ => ?_) (fun u hno hscan => ?_) _ _ 0 (.start hr .rdScan) (Nat.zero_add _) nofun
  · have hok := hscan.after.okSoFar
    rw [length_slotReads] at hok
    exact .inr ⟨readFound_seq n u, _, .of_found hok hm⟩
  · have hok := hscan.after.okSoFar
    rw [length_slotReads] at hok
    exact .inr ⟨rfl, _, .of_noSlot hok hno⟩

/-! ### The request that cuts a command off -/

theorem State.WriteStage.running {done : List RgnRequest} {q : RgnRequest} (h : s.WriteStage n wdata u done q) :
    u.seq.running = true := by
  cases h with
  | scan _ _ _ hscan => rw [hscan.seq]; rfl
  | commit _ _ _ hholds => rw [hholds.seq]; rfl
  | erase _ hscan => rw [hscan.seq]; rfl
  | slot0 _ _ hholds => rw [hholds.seq]; rfl
  | reinit _ _ _ _ hholds => rw [hholds.seq]; rfl

/-- The command's last request is the one whose answer is the first that is not ok. -/
theorem State.CutOff.length_done {done : List RgnRequest} {q : RgnRequest} {j : Nat} (h : s.CutOff u t done q)
    (hok : s.okFor j) (hj : s.answers.getD j .ok ≠ .ok) : done.length = j := by
  have hlast : s.answers.getD done.length .ok ≠ .ok := by
    rw [List.getD_eq_getElem?_getD]
    obtain ⟨draw, e, _⟩ | ⟨e, _⟩ := h.outcome <;> rw [e] <;> exact nofun
  obtain hlt | heq | hlt := Nat.lt_trichotomy done.length j
  · exact absurd (hok _ hlt) hlast
  · exact heq
  · exact absurd (h.okSoFar j hlt) hj

/-- What a failing or unanswered request makes of the command whose `j` requests before it succeeded (R203, R241). -/
def State.EndsAt (s t : State) (j : Nat) : Prop :=
  t.trace.length = j + 1 ∧
    ((∃ draw, s.answers[j]? = some (.fail draw) ∧ t.seq = .fault ∧ t.fault = true ∧
        t.status = .hardwareFault ∧ t.resp = some (.store .hardwareFault 0 (rep 0x00 8))) ∨
      (s.answers[j]? = some .never ∧ t.seq.running = true ∧ t.resp = none ∧ t.inflight = t.trace.getLast?))

theorem State.CutOff.endsAt {done : List RgnRequest} {q : RgnRequest} {j : Nat} (h : s.CutOff u t done q)
    (hrun : u.seq.running = true) (hok : s.okFor j) (hj : s.answers.getD j .ok ≠ .ok) : s.EndsAt t j := by
  have hlen := h.length_done hok hj
  refine ⟨by rw [h.trace, List.length_append, hlen]; rfl, ?_⟩
  obtain ⟨draw, hans, _, hseq, hfault, _, hstatus, hresp⟩ | ⟨hans, _, hseq, hinflight, hresp, _⟩ := h.outcome
  · exact .inl ⟨draw, hlen ▸ hans, hseq, hfault, hstatus, hresp⟩
  · exact .inr ⟨hlen ▸ hans, hseq ▸ hrun, hresp, by rw [hinflight, h.trace, List.getLast?_concat]⟩

/-- A command that was served had no such answer among its requests. -/
theorem State.Served.no_failure {test : Record → Bool} {found passed k j : Nat} (h : s.Served test found passed k)
    (hj : s.answers.getD j .ok ≠ .ok)
    (hwithin : (∃ m, s.firstSlot test m ∧ j < m + found) ∨ s.noSlot test ∧ j < passed) : False := by
  obtain ⟨hok, hfound, hpassed⟩ := h
  obtain ⟨m, hm, hlt⟩ | ⟨hno, hlt⟩ := hwithin
  · exact hj (hok j (hfound m hm ▸ hlt))
  · exact hj (hok j (hpassed hno ▸ hlt))

theorem readBody_endsAt {j : Nat} (hl : s.cfg.legal = true) (hr : s.ready) (hok : s.okFor j)
    (hj : s.answers.getD j .ok ≠ .ok)
    (hwithin : (∃ m, s.firstSlot Record.occupied m ∧ j < m + 1) ∨
      s.noSlot Record.occupied ∧ j < s.cfg.recordCount) : s.EndsAt (readBody n s.accepted) j := by
  obtain ⟨u, i, _, _, hscan, hcut⟩ | ⟨_, k, hserved⟩ := readBody_outcome (n := n) hl hr
  · exact hcut.endsAt (by rw [hscan.seq]; rfl) hok hj
  · exact (hserved.no_failure hj hwithin).elim

theorem writeBody_endsAt {j : Nat} (hl : s.cfg.legal = true) (hr : s.ready) (hok : s.okFor j)
    (hj : s.answers.getD j .ok ≠ .ok)
    (hwithin : (∃ m, s.firstSlot Record.isMatching m ∧ j < m + 2) ∨
      s.noSlot Record.isMatching ∧ j < 2 * s.cfg.recordCount + 1) : s.EndsAt (writeBody n wdata s.accepted) j := by
  obtain ⟨u, done, q, hstage, hcut⟩ | ⟨_, k, hserved⟩ := writeBody_outcome (n := n) (wdata := wdata) hl hr
  · exact hcut.endsAt hstage.running hok hj
  · exact (hserved.no_failure hj hwithin).elim

/-! ### The answers a command has had -/

/-- Each traced request has had one answer, and only the last of them another than ok. -/
structure State.Requested (s t : State) : Prop where
  answers : t.answers = s.answers.drop t.trace.length
  failed : ∀ j < t.trace.length, ∀ draw, s.answers[j]? = some (.fail draw) →
    j + 1 = t.trace.length ∧ t.seq = .fault ∧ t.fault = true ∧
      t.resp = some (.store .hardwareFault 0 (rep 0x00 8)) ∧ t.status = .hardwareFault ∧
      t.rlen = 0 ∧ t.rdata = rep 0x00 8
  waits : ∀ j < t.trace.length, s.answers[j]? = some .never →
    j + 1 = t.trace.length ∧ t.seq.running = true ∧ t.resp = none ∧ t.inflight = t.trace.getLast?
  fault : t.seq = .fault → ∃ j draw, j + 1 = t.trace.length ∧ s.answers[j]? = some (.fail draw)

theorem State.During.answer_ok (h : s.During u) {j : Nat} {a : Answer} (hj : j < u.trace.length)
    (ha : s.answers[j]? = some a) : a = .ok := by
  have hok := h.okSoFar j hj
  rwa [List.getD_eq_getElem?_getD, ha] at hok

/-- Of the answers up to the next request's, only that one can be another than ok. -/
theorem State.During.eq_length_of_ne_ok (h : s.During u) {q : RgnRequest} {j : Nat} {a : Answer}
    (hj : j < (u.trace ++ [q]).length) (ha : s.answers[j]? = some a) (hne : a ≠ .ok) : j = u.trace.length := by
  rw [List.length_append, List.length_singleton] at hj
  by_cases hlt : j < u.trace.length
  · exact absurd (h.answer_ok hlt ha) hne
  · omega

theorem State.During.next_answer (h : s.During u) {a : Answer} (ha : u.nextAnswer = a) (hne : a ≠ .ok) :
    s.answers[u.trace.length]? = some a :=
  getElem?_of_getD ((State.nextAnswer_eq h.answers).symm.trans ha) hne

theorem State.During.answers_tail (h : s.During u) (q : RgnRequest) :
    u.answers.tail = s.answers.drop (u.trace ++ [q]).length := by
  rw [h.answers, List.tail_drop, List.length_append, List.length_singleton]

theorem State.During.requested_failed (h : s.During u) {q : RgnRequest} {draw : Nat} {m : Memory}
    (ha : u.nextAnswer = .fail draw) :
    s.Requested (((u.traced q).popAnswer.setRgn m).raise .hardwareFault) where
  answers := h.answers_tail q
  failed j hj d hd := by
    have hlen := h.eq_length_of_ne_ok hj hd nofun
    exact ⟨by simp [hlen], rfl, rfl, rfl, rfl, rfl, rfl⟩
  waits j hj hnever := by
    rw [h.eq_length_of_ne_ok hj hnever nofun, h.next_answer ha nofun] at hnever
    cases hnever
  fault _ := ⟨u.trace.length, draw, by simp, h.next_answer ha nofun⟩

theorem State.During.requested_await (h : s.During u) {q : RgnRequest} (ha : u.nextAnswer = .never) :
    s.Requested ((u.traced q).popAnswer.await q) where
  answers := h.answers_tail q
  failed j hj d hd := by
    rw [h.eq_length_of_ne_ok hj hd nofun, h.next_answer ha nofun] at hd
    cases hd
  waits j hj hnever := by
    have hlen := h.eq_length_of_ne_ok hj hnever nofun
    exact ⟨by simp [hlen], h.running, rfl, by simp⟩
  fault hf := by
    have hrun := h.running
    rw [show u.seq = .fault from hf] at hrun
    cases hrun

/-- However a command ends or waits, its requests have had their answers, if it is IDLE where it came to its end. -/
theorem Ends.requested {C : State → Prop} {D : State → State → Prop} {A : RgnRequest → Prop}
    (hends : Ends (fun u => s.During u ∧ C u) D A t)
    (hdone : ∀ u, D u t → t.answers = u.answers ∧ t.trace = u.trace ∧ t.seq = .idle) : s.Requested t := by
  obtain ⟨u, ⟨hu, _⟩, hD⟩ | ⟨u, q, draw, ⟨hu, _⟩, _, _, ha, rfl⟩ | ⟨u, q, ⟨hu, _⟩, _, _, ha, rfl⟩ := hends
  · obtain ⟨hans, htr, hseq⟩ := hdone u hD
    refine ⟨by rw [hans, htr, hu.answers], fun j hj _ hd => ?_, fun j hj hd => ?_, fun hf => ?_⟩
    · exact nomatch hu.answer_ok (htr ▸ hj) hd
    · exact nomatch hu.answer_ok (htr ▸ hj) hd
    · exact nomatch hseq.symm.trans hf
  · exact hu.requested_failed ha
  · exact hu.requested_await ha

theorem readBody_requested (n : Byte) (hl : s.cfg.legal = true) (htr : s.trace = []) :
    s.Requested (readBody n s) := by
  refine (readBody_Ends n hl htr).requested fun u hdone => ?_
  obtain ⟨_, e⟩ | ⟨_, e⟩ | e := hdone <;> rw [e] <;> exact ⟨rfl, rfl, rfl⟩

theorem writeBody_requested (n : Byte) (wdata : List Byte) (hl : s.cfg.legal = true) (htr : s.trace = []) :
    s.Requested (writeBody n wdata s) := by
  have hends : Ends (fun u => s.During u ∧ True) _ _ _ :=
    (writeBody_Ends n wdata hl htr).mono fun _ hu => ⟨hu, trivial⟩
  refine hends.requested fun u hdone => ?_
  rw [hdone]
  exact ⟨rfl, rfl, rfl⟩

end Sys2Proof.Machine
end

section
open Sys2Proof Sys2Proof.Machine

/-- Settles O40: only a command's last request can have had another answer than ok, and the command comes to it. -/
theorem failingRequestEndsCommand : Obligations.FailingRequestEndsCommand := by
  refine ⟨fun s t n wdata hlegal hr hn h => ?_, fun s i n wdata j hlegal hr hn hok hj h => ?_⟩
  · have hreq : s.accepted.Requested t := by
      rw [exec_cfgRead_body hr hn, exec_cfgWrite_body hr hn] at h
      obtain h | h := h
      · cases h
        exact readBody_requested n hlegal rfl
      · cases h
        exact writeBody_requested n wdata hlegal rfl
    exact ⟨hreq.answers, hreq.failed, hreq.waits, hreq.fault⟩
  · obtain ⟨rfl, hwithin⟩ | ⟨rfl, hwithin⟩ := h
    · exact ⟨_, exec_cfgRead_body hr hn, readBody_endsAt hlegal hr hok hj hwithin⟩
    · exact ⟨_, exec_cfgWrite_body hr hn, writeBody_endsAt hlegal hr hok hj hwithin⟩

end

section
/-! What each stage leaves when its request cuts the command off (spec 60_exceptions.md R203, 40_region_ops.md R105,
70_reset_and_hazards.md R237, R241). -/

namespace Sys2Proof.Machine

variable {s u t : State} {n : Byte} {wdata : List Byte} {done : List RgnRequest} {q : RgnRequest}

theorem State.CutOff.loadedTo {k : Nat} (h : s.CutOff u t done q) (hu : s.LoadedTo u k) : s.LoadedTo t k := by
  rw [State.LoadedTo, h.img, h.record]
  exact hu

/-- The codec unit, the pointer and the sequencer of a program that cuts its command off. -/
theorem State.CutOff.holdsAt {c : Config} {r : Record} {i : Nat} {p : Seq} (h : s.CutOff u t done q)
    (hu : u.HoldsAt c r i p) : t.ptr = BitVec.ofNat 16 i ∧ t.record = r ∧ t.img = encodeRecord c r ∧
      t.crc = r.checksum ^^^ 0xFFFFFFFF ∧ (t.seq = .fault ∨ t.seq = p) :=
  ⟨h.ptr.trans hu.ptr, h.record.trans hu.record, h.img.trans hu.img, h.crc.trans hu.crc, hu.seq ▸ h.seq⟩

/-- What the last request of a command that was cut off did to the region (R105, R203, R241). -/
def State.LastRequest (s t : State) (done : List RgnRequest) (q : RgnRequest) : Prop :=
  let before := done.foldl (fun m p => RgnRequest.apply p m) s.rgn
  (∃ draw, s.answers[done.length]? = some (.fail draw) ∧ t.seq = .fault ∧ t.inflight = none ∧
      ∀ a, t.rgn.read a =
        if q.off ≤ a ∧ a < q.off + q.newBytes.length ∧ draw.testBit (a - q.off) = true then
          q.newBytes.getD (a - q.off) 0xFF
        else before.read a) ∨
    (s.answers[done.length]? = some .never ∧ t.seq ≠ .fault ∧ t.inflight = some q ∧ t.rgn = before ∧
      t.fault = s.fault ∧ t.status = s.status ∧ t.rlen = s.rlen ∧ t.rdata = s.rdata)

theorem Seq.ne_fault_of_running {p : Seq} (h : p.running = true) : p ≠ .fault := by
  rintro rfl
  cases h

theorem State.CutOff.lastRequest (h : s.CutOff u t done q) (hu : s.After u done) (hrun : u.seq.running = true)
    (hwf : s.rgn.wf) : s.LastRequest t done q := by
  obtain ⟨draw, hans, hrgn, hseq, _, hinflight, _⟩ |
    ⟨hans, hrgn, hseq, hinflight, _, hfault, hstatus, hrlen, hrdata⟩ := h.outcome
  · refine .inl ⟨draw, hans, hseq, hinflight, fun a => ?_⟩
    rw [hrgn, RgnRequest.read_applyPartial_eq (hu.wf hwf), hu.rgn]
    rfl
  · exact .inr ⟨hans, hseq ▸ Seq.ne_fault_of_running hrun, hinflight, hrgn.trans hu.rgn, hfault, hstatus, hrlen, hrdata⟩

/-- The reads of every slot, as the trace of a scan that passed the last one (R179). -/
theorem slotReads_recordCount {c : Config} (h : 0 < c.recordCount) :
    slotReads c c.recordCount = scanTrace c (c.recordCount - 1) := by
  rw [← slotReads_scanTrace, Nat.sub_add_cancel h]

theorem compactReads_eq {c : Config} (h : 0 < c.recordCount) :
    compactReads c = scanTrace c (c.recordCount - 1) ++ [.erase 0 c.regionSize] := by
  rw [compactReads, slotReads_recordCount h, eraseAll]

/-- A read that cuts its command off leaves the region (R61). -/
theorem State.CutOff.rgn_of_read {off cnt : Nat} (h : s.CutOff u t done (.read off cnt)) : t.rgn = u.rgn := by
  obtain ⟨_, _, hrgn, _⟩ | ⟨_, hrgn, _⟩ := h.outcome
  · exact hrgn
  · exact hrgn

theorem State.LoadedTo.last {k : Nat} (h : s.LoadedTo u k) (hk : 0 < k) :
    u.img = s.slotImg (k - 1) ∧ u.record = s.slotRec (k - 1) := by
  obtain ⟨h0, _⟩ | ⟨i, rfl, himg, hrec⟩ := h
  · omega
  · exact ⟨himg, hrec⟩

theorem slotProg_zero (c : Config) (r : Record) : slotProg c 0 r = .prog 0 (encodeRecord c r) := by
  rw [slotProg, Config.slotOff_zero]

end Sys2Proof.Machine
end

section
open Sys2Proof Sys2Proof.Machine

/-- Settles O41: the stage names the requests and the registers, its last request the region. -/
theorem cutOffCommandByStage : Obligations.CutOffCommandByStage := by
  refine ⟨fun s t n wdata hlegal hr hwf hn hw h hne => ?_, fun s t n hlegal hr hn h hne => ?_⟩
  · rw [exec_cfgWrite_body hr hn] at h
    cases h
    have hpos := Config.recordCount_pos_of_legal hlegal
    obtain ⟨u, done, q, hstage, hcut⟩ | ⟨hidle, _⟩ := writeBody_outcome (n := n) (wdata := wdata) hlegal hr
    · refine ⟨⟨done, q, hcut.trace, hcut.lastRequest hstage.after hstage.running hwf⟩, ?_⟩
      cases hstage with
      | scan i hi hbefore hscan =>
        exact .inl ⟨i, hi, hbefore, hcut.trace.trans (slotReads_succ _ _).symm, hcut.ptr.trans hscan.ptr, hcut.crc.trans hscan.crc,
          hcut.loadedTo hscan.loaded, hscan.seq ▸ hcut.seq⟩
      | commit m hm hafter hholds =>
        rw [updatedRecord_eq_rewritten (sized_slotRec s m) hn hw] at hcut hholds
        obtain ⟨hptr, hrec, himg, hcrc, hseq⟩ := hcut.holdsAt hholds
        exact .inr (.inl ⟨m, hm, hcut.trace, hptr, hrec, himg, hcrc, hseq⟩)
      | erase hno hscan =>
        obtain ⟨himg, hrec⟩ := hscan.loaded.last hpos
        refine .inr (.inr (.inl ⟨hno, ?_, hcut.ptr.trans hscan.ptr, hcut.crc.trans hscan.crc, hcut.img.trans himg,
          hcut.record.trans hrec, hscan.seq ▸ hcut.seq⟩))
        rw [hcut.trace, slotReads_recordCount hpos, eraseAll]
      | slot0 hno hafter hholds =>
        rw [updatedRecord_eq_rewritten (sized_erasedRecord s.cfg) hn hw] at hcut hholds
        obtain ⟨hptr, hrec, himg, hcrc, hseq⟩ := hcut.holdsAt hholds
        refine .inr (.inr (.inr ⟨hno, 0, hpos, ?_, hptr, hrec, himg, hcrc, hseq⟩))
        rw [hcut.trace, compactReads_eq hpos, slotProg_zero]
        exact (List.append_nil _).symm
      | reinit k hno hk hafter hholds =>
        rw [updatedRecord_eq_rewritten (sized_erasedRecord s.cfg) hn hw] at hcut
        obtain ⟨hptr, hrec, himg, hcrc, hseq⟩ := hcut.holdsAt hholds
        refine .inr (.inr (.inr ⟨hno, k + 1, hk, ?_, hptr, hrec, himg, hcrc, hseq⟩))
        rw [hcut.trace, List.append_assoc, ← reinitProgs_concat, compactReads_eq hpos, slotProg_zero]
        rfl
    · exact absurd hidle hne
  · rw [exec_cfgRead_body hr hn] at h
    cases h
    obtain ⟨u, i, hi, hbefore, hscan, hcut⟩ | ⟨hidle, _⟩ := readBody_outcome (n := n) hlegal hr
    · refine ⟨?_, hcut.crc.trans hscan.crc, i, hi, hbefore, hcut.trace.trans (slotReads_succ _ _).symm,
        hcut.ptr.trans hscan.ptr, hcut.loadedTo hscan.loaded, ?_⟩
      · exact hcut.rgn_of_read.trans hscan.rgn
      · have hlen := length_slotReads s.cfg i
        obtain ⟨draw, hans, _, hseq, _, hinflight, _⟩ |
          ⟨hans, _, hseq, hinflight, _, hfault, hstatus, hrlen, hrdata⟩ := hcut.outcome
        · exact .inl ⟨draw, hlen ▸ hans, hseq, hinflight⟩
        · exact .inr ⟨hlen ▸ hans, hseq.trans hscan.seq, hinflight, hfault, hstatus, hrlen, hrdata⟩
    · exact absurd hidle hne

end

section
/-! Store commands do not depend on what the registers held (spec 70_reset_and_hazards.md R231): two states that agree in
what a command reads before it writes it stay so through every part of a command. -/

namespace Sys2Proof.Machine

variable {s s' t t' : State}

/-! ### Agreement -/

/-- Two states agree in everything a store command does not write before it reads it. -/
structure State.Agree (s s' : State) : Prop where
  cfg : s'.cfg = s.cfg
  seq : s'.seq = s.seq
  rgn : s'.rgn = s.rgn
  inflight : s'.inflight = s.inflight
  trace : s'.trace = s.trace
  answers : s'.answers = s.answers

/-- They agree in `ptr` too, once the command has written it. -/
structure State.Alike (s s' : State) : Prop extends State.Agree s s' where
  ptr : s'.ptr = s.ptr

/-- They agree in the codec unit too, once the command has written it. -/
structure State.AlikeLoaded (s s' : State) : Prop extends State.Alike s s' where
  record : s'.record = s.record
  img : s'.img = s.img

/-- Two commands have ended or wait alike. -/
structure State.SameEnd (t t' : State) : Prop where
  resp : t'.resp = t.resp
  rgn : t'.rgn = t.rgn
  seq : t'.seq = t.seq
  trace : t'.trace = t.trace
  answers : t'.answers = t.answers
  inflight : t'.inflight = t.inflight

theorem State.Alike.setSeq (h : s.Alike s') (q : Seq) : (s.setSeq q).Alike (s'.setSeq q) := { h with seq := rfl }

theorem State.Agree.setSeq (h : s.Agree s') (q : Seq) : (s.setSeq q).Agree (s'.setSeq q) := { h with seq := rfl }

theorem State.Agree.setPtr (h : s.Agree s') (p : BitVec 16) : (s.setPtr p).Alike (s'.setPtr p) := { h with ptr := rfl }

theorem State.AlikeLoaded.setSeq (h : s.AlikeLoaded s') (q : Seq) : (s.setSeq q).AlikeLoaded (s'.setSeq q) :=
  { h with seq := rfl }

theorem State.AlikeLoaded.setPtr (h : s.AlikeLoaded s') (p : BitVec 16) : (s.setPtr p).AlikeLoaded (s'.setPtr p) :=
  { h with ptr := rfl }

theorem State.AlikeLoaded.updated (h : s.AlikeLoaded s') (n : Nat) (w : List Byte) :
    (s.updated n w).AlikeLoaded (s'.updated n w) :=
  { h with record := by simp only [State.updated_record, h.record] }

theorem State.AlikeLoaded.sealed (h : s.AlikeLoaded s') : s.sealed.AlikeLoaded s'.sealed :=
  { h with
    record := by simp only [State.sealed_record, h.record, h.cfg]
    img := by simp only [State.sealed_img, h.record, h.cfg] }

/-- `ERASED_IMG` loaded, the codec units agree whatever they held (R168). -/
theorem State.Alike.loadErased (h : s.Alike s') : s.loadErased.AlikeLoaded s'.loadErased :=
  { h with
    record := by simp only [State.loadErased_record, h.cfg]
    img := by simp only [State.loadErased_img, h.cfg] }

theorem State.Agree.raise (h : s.Agree s') (k : Kind) : (s.raise k).SameEnd (s'.raise k) where
  resp := by simp
  rgn := by simpa using h.rgn
  seq := by simp
  trace := by simpa using h.trace
  answers := by simpa using h.answers
  inflight := by simpa using h.inflight

theorem State.Agree.finish (h : s.Agree s') (n : BitVec 4) (data : List Byte) :
    (s.finish n data).SameEnd (s'.finish n data) :=
  ⟨rfl, h.rgn, rfl, h.trace, h.answers, h.inflight⟩

/-- A request made in both, whatever its answer leaves in the region. -/
theorem State.Alike.requested (h : s.Alike s') (q : RgnRequest) (m : Memory) :
    ((s.traced q).popAnswer.setRgn m).Alike ((s'.traced q).popAnswer.setRgn m) :=
  { h with
    rgn := rfl
    trace := congrArg (· ++ [q]) h.trace
    answers := congrArg List.tail h.answers }

theorem State.Alike.await (h : s.Alike s') (q : RgnRequest) :
    ((s.traced q).popAnswer.await q).SameEnd ((s'.traced q).popAnswer.await q) :=
  ⟨rfl, h.rgn, h.seq, congrArg (· ++ [q]) h.trace, congrArg List.tail h.answers, rfl⟩

/-! ### Parts of a command -/

/-- Two flows go on in states related by `R`, or have both ended alike. -/
def Flow.Alike (R : State → State → Prop) (f f' : Flow) : Prop :=
  (∃ s s', f = .go s ∧ f' = .go s' ∧ R s s') ∨ ∃ t t', f = .ended t ∧ f' = .ended t' ∧ t.SameEnd t'

theorem Flow.Alike.andThen {R : State → State → Prop} {f f' : Flow} {k : State → State} (h : Flow.Alike R f f')
    (hk : ∀ s s', R s s' → (k s).SameEnd (k s')) : (f.andThen k).SameEnd (f'.andThen k) := by
  obtain ⟨s, s', rfl, rfl, hR⟩ | ⟨t, t', rfl, rfl, hend⟩ := h
  · exact hk s s' hR
  · exact hend

theorem storeAccess_alike {R : State → State → Prop} {q : RgnRequest} {k : List Byte → State → State}
    (h : s.Alike s') (hk : ∀ data t t', t.Alike t' → R (k data t) (k data t')) :
    Flow.Alike R (storeAccess q s k) (storeAccess q s' k) := by
  have hans : s'.answerTo q = s.answerTo q := by
    simp only [State.answerTo, State.nextAnswer, h.answers]
  have hrange : q.inRange s'.cfg = q.inRange s.cfg := by rw [h.cfg]
  cases hq : q.inRange s.cfg with
  | false =>
    rw [storeAccess_outOfRange hq, storeAccess_outOfRange (hrange.trans hq)]
    have htraced : (s.traced q).Alike (s'.traced q) := { h with trace := congrArg (· ++ [q]) h.trace }
    exact .inr ⟨_, _, rfl, rfl, htraced.raise _⟩
  | true =>
    cases ha : s.answerTo q with
    | ok =>
      rw [storeAccess_ok hq ha, storeAccess_ok (hrange.trans hq) (hans.trans ha), h.rgn]
      exact .inl ⟨_, _, rfl, rfl, hk _ _ _ (h.requested q _)⟩
    | fail draw =>
      rw [storeAccess_fail hq ha, storeAccess_fail (hrange.trans hq) (hans.trans ha), h.rgn]
      exact .inr ⟨_, _, rfl, rfl, (h.requested q _).raise _⟩
    | never =>
      rw [storeAccess_never hq ha, storeAccess_never (hrange.trans hq) (hans.trans ha)]
      exact .inr ⟨_, _, rfl, rfl, h.await q⟩

theorem loadSlot_alike (h : s.Alike s') (i : Nat) :
    Flow.Alike State.AlikeLoaded (loadSlot i s) (loadSlot i s') := by
  rw [loadSlot, loadSlot, h.cfg]
  refine storeAccess_alike h fun data t t' ht => ?_
  exact { ht with record := congrArg (decodeRecord · data) ht.cfg, img := rfl }

theorem progSlot_alike (h : s.AlikeLoaded s') (i : Nat) :
    Flow.Alike State.Alike (progSlot i s) (progSlot i s') := by
  rw [progSlot, progSlot, h.cfg, h.img]
  exact storeAccess_alike h.toAlike fun _ _ _ ht => ht

theorem scan_alike {test : Record → Bool} {found exhausted : State → State}
    (hfound : ∀ s s', s.AlikeLoaded s' → (found s).SameEnd (found s'))
    (hex : ∀ s s', s.Alike s' → (exhausted s).SameEnd (exhausted s')) :
    ∀ (n : Nat) (s s' : State), s.Alike s' →
      (scan test found exhausted n s).SameEnd (scan test found exhausted n s') := by
  intro n
  induction n with
  | zero => exact hex
  | succ n ih =>
    intro s s' h
    rw [scan, scan, h.ptr]
    refine (loadSlot_alike h _).andThen fun t t' ht => ?_
    rw [ht.record, ht.ptr]
    split
    · exact hfound t t' ht
    · exact ih _ _ (ht.toAgree.setPtr _)

/-! ### The commands -/

theorem readFound_alike (n : Byte) (h : s.AlikeLoaded s') : (readFound n s).SameEnd (readFound n s') := by
  have hvalue : s'.validValue = s.validValue := by simp only [State.validValue, h.record, h.cfg]
  have hvalid : s.recValid.AlikeLoaded s'.recValid := { h with }
  have hanswer : ∀ t t' : State, t.AlikeLoaded t' →
      (t.finish (n.setWidth 4) (readBack t.record.payloadA n.toNat)).SameEnd
        (t'.finish (n.setWidth 4) (readBack t'.record.payloadA n.toNat)) := by
    intro t t' ht
    rw [ht.record]
    exact ht.finish _ _
  unfold readFound
  rw [h.cfg, hvalue]
  cases s.cfg.verifyOnRead with
  | false => exact hanswer s s' h
  | true =>
    cases s.validValue with
    | false => exact hvalid.raise .corrupt
    | true => exact hanswer _ _ hvalid

theorem readBody_alike (n : Byte) (h : s.Agree s') : (readBody n s).SameEnd (readBody n s') := by
  rw [readBody, readBody, h.cfg]
  exact scan_alike (fun _ _ hs => readFound_alike n hs) (fun _ _ hs => hs.raise _) _ _ _ ((h.setSeq _).setPtr _)

theorem commit_alike (n : Byte) (w : List Byte) (h : s.AlikeLoaded s') : (commit n w s).SameEnd (commit n w s') := by
  rw [commit, commit, h.ptr]
  exact (progSlot_alike ((h.setSeq _).updated _ _).sealed _).andThen fun _ _ ht => ht.finish _ _

theorem reinitSlots_alike : ∀ (n : Nat) (s s' : State), s.Alike s' →
    Flow.Alike State.Alike (reinitSlots n s) (reinitSlots n s') := by
  intro n
  induction n with
  | zero => exact fun s s' h => .inl ⟨s, s', rfl, rfl, h⟩
  | succ n ih =>
    intro s s' h
    rw [reinitSlots, reinitSlots, h.ptr]
    obtain ⟨t, t', e, e', ht⟩ | ⟨t, t', e, e', ht⟩ := progSlot_alike h.loadErased.sealed s.ptr.toNat
    · rw [e, e']
      simp only [ht.ptr]
      exact ih _ _ (ht.setPtr _)
    · rw [e, e']
      exact .inr ⟨t, t', rfl, rfl, ht⟩

theorem compact_alike (n : Byte) (w : List Byte) (h : s.Alike s') : (compact n w s).SameEnd (compact n w s') := by
  rw [compact, compact, h.cfg]
  refine (storeAccess_alike (R := State.Alike) (h.setSeq _) fun _ _ _ ht => ht).andThen fun t t' ht => ?_
  have hslot0 := progSlot_alike ((((ht.setSeq .cpSlot0).loadErased.updated n.toNat w).sealed).setPtr 0) 0
  refine hslot0.andThen fun u u' hu => ?_
  rw [hu.cfg]
  exact (reinitSlots_alike _ _ _ ((hu.setSeq _).setPtr _)).andThen fun _ _ hv => (hv.setPtr _).finish _ _

theorem writeBody_alike (n : Byte) (w : List Byte) (h : s.Agree s') :
    (writeBody n w s).SameEnd (writeBody n w s') := by
  rw [writeBody, writeBody, h.cfg]
  exact scan_alike (fun _ _ hs => commit_alike n w hs) (fun _ _ hs => compact_alike n w hs) _ _ _
    ((h.setSeq _).setPtr _)

theorem storeCommand_alike {bufp : Bool} {arg : Byte} {body : State → State} (hr : s.ready) (hr' : s'.ready)
    (h : s.accepted.Agree s'.accepted) (hbody : (body s.accepted).SameEnd (body s'.accepted)) :
    (storeCommand bufp arg body s).SameEnd (storeCommand bufp arg body s') := by
  cases hlen : badLength bufp arg with
  | true =>
    rw [storeCommand_badLength hr hlen, storeCommand_badLength hr' hlen]
    exact h.raise _
  | false =>
    rw [storeCommand_body hr hlen, storeCommand_body hr' hlen]
    exact hbody

end Sys2Proof.Machine
end

section
open Sys2Proof Sys2Proof.Machine

/-- Settles O55: a command writes `ptr` before its scan and the codec unit before it reads it. -/
theorem storeCommandIgnoresOldRegisters : Obligations.StoreCommandIgnoresOldRegisters := by
  intro s s' t t' bufp n wdata hlegal hr hr' hcfg hrgn hans h
  have hagree : s.accepted.Agree s'.accepted :=
    ⟨hcfg, hr'.1.trans hr.1.symm, hrgn, hr'.2.trans hr.2.symm, rfl, hans⟩
  have hends : t.SameEnd t' := by
    obtain ⟨h, h'⟩ | ⟨h, h'⟩ := h
    · cases h
      cases h'
      exact storeCommand_alike hr hr' hagree (readBody_alike n hagree)
    · cases h
      cases h'
      exact storeCommand_alike hr hr' hagree (writeBody_alike n wdata hagree)
  exact ⟨hends.resp, hends.rgn, hends.seq, hends.trace, hends.answers, hends.inflight⟩

end
